-- ==== Sys2Proof/Word.lean ====
section
/-! DEFINITION. The word types of the CFU (spec/00_scope.md R6: every value is an unsigned integer of a
stated width; bit 0 is the least significant bit). -/

namespace Sys2Proof

/-- `u8`: one byte, the unit of the frame buffer (R6, R30). -/
abbrev Byte := BitVec 8

/-- `u4`: half a byte, what the checksum engine absorbs in one step (R6, R56). -/
abbrev Nibble := BitVec 4

/-- `u16`: the accumulator's width `ACCW` (R5, R10). -/
abbrev Word16 := BitVec 16

/-- A command word: 12 bits (spec/30_encoding.md R45). -/
abbrev CommandWord := BitVec 12

end Sys2Proof
end

