-- ==== Sys2Proof/Machine/Operands.lean ====
section
/-! DEFINITION. The parts of operands and registers that the operations name (spec/00_scope.md R6) and the operand
form of `CFG` (spec/30_encoding.md R48). -/

namespace Sys2Proof.Machine

/-- `b[7:4]`, the high nibble of a byte (R6). -/
def highNibble (b : Byte) : Nibble := b.extractLsb' 4 4

/-- `b[3:0]`, the low nibble of a byte (R6). -/
def lowNibble (b : Byte) : Nibble := b.extractLsb' 0 4

/-- `v[15:8]`, the high byte of the accumulator (R6). -/
def highByte (v : Word16) : Byte := v.extractLsb' 8 8

/-- `v[7:0]`, the low byte of the accumulator (R6). -/
def lowByte (v : Word16) : Byte := v.extractLsb' 0 8

/-- The operand test of `CFG`: `imm[7:1]` is 0 (R48), so that `imm` is 0x00 or 0x01. -/
def cfgImmLegal (imm : Byte) : Bool := imm.extractLsb' 1 7 == 0#7

/-- `imm[0]`, the value `CFG` writes to `SELFCHK` (R48). -/
def selfchkBit (imm : Byte) : Bool := imm.getLsbD 0

end Sys2Proof.Machine
end

