-- ==== Sys2Proof/Syntax.lean ====
section
/-! DEFINITION. The ten operations of the CFU, one constructor per row of spec/opcode_table.json
(spec/30_encoding.md R46). -/

namespace Sys2Proof

/-- One operation, with the operand its command word carries. -/
inductive Instr where
  /-- `CLR`: clear the accumulator (R62). -/
  | clr
  /-- `ABS imm`: absorb one byte into the accumulator (R63). -/
  | abs (imm : Byte)
  /-- `FIN`: finalise the checksum (R64). -/
  | fin
  /-- `CSUM`: checksum of the whole buffer (R65). -/
  | csum
  /-- `RSTB`: empty the buffer (R70). -/
  | rstb
  /-- `PUSH imm`: append one byte at the tail (R71). -/
  | push (imm : Byte)
  /-- `POP`: remove the head byte into `DOUT` (R72). -/
  | pop
  /-- `ENC`: encode the buffer in place (R83). -/
  | enc
  /-- `DEC`: decode the buffer in place (R94). -/
  | dec
  /-- `CFG imm`: write the configuration bit; legal when `imm[7:1]` is 0 (R48, R73). -/
  | cfg (imm : Byte)
deriving DecidableEq, Repr

end Sys2Proof
end

