-- ==== Sys2Proof/WellFormed.lean ====
section
/-! DEFINITION. Which operations are legal (spec/30_encoding.md R46, column "legal when"). Of the ten, only
`CFG` has an operand that the map restricts; the unused immediates of the others are no part of the syntax. -/

namespace Sys2Proof

/-- The operation has an operand the opcode map allows (R46). -/
def Instr.wellFormed : Instr → Bool
  | .clr => true
  | .abs _ => true
  | .fin => true
  | .csum => true
  | .rstb => true
  | .push _ => true
  | .pop => true
  | .enc => true
  | .dec => true
  | .cfg imm => Machine.cfgImmLegal imm

end Sys2Proof
end

