-- ==== Sys2Proof/Decode.lean ====
section
/-! DEFINITION. The command word (spec/30_encoding.md R45 to R50): fields, decoder, opcode table, encoder. -/

namespace Sys2Proof

/-- `op`, bits 11:8 of a command word (R45). -/
def opField (w : CommandWord) : Nibble := w.extractLsb' 8 4

/-- `imm`, bits 7:0 of a command word, an unsigned byte (R45, R47). -/
def immField (w : CommandWord) : Byte := w.extractLsb' 0 8

/-- An operation without immediate is legal only when `imm` = 0x00 (R46). -/
def withoutImm (imm : Byte) (i : Instr) : Option Instr := if imm = 0x00#8 then some i else none

/-- The opcode map (R46): `op` selects the row, the row's "legal when" is tested on `imm`. Total, and needs no
state (R49); `none` is an illegal word (R50). -/
def decode (w : CommandWord) : Option Instr :=
  let imm := immField w
  match (opField w).toNat with
  | 0x0 => withoutImm imm .clr
  | 0x1 => some (.abs imm)
  | 0x2 => withoutImm imm .fin
  | 0x3 => withoutImm imm .csum
  | 0x4 => withoutImm imm .rstb
  | 0x5 => some (.push imm)
  | 0x6 => withoutImm imm .pop
  | 0x7 => withoutImm imm .enc
  | 0x8 => withoutImm imm .dec
  | 0x9 => if Machine.cfgImmLegal imm then some (.cfg imm) else none
  | _ => none

/-- The operation code of each row (R46). -/
def Instr.opcode : Instr → Nibble
  | .clr => 0x0
  | .abs _ => 0x1
  | .fin => 0x2
  | .csum => 0x3
  | .rstb => 0x4
  | .push _ => 0x5
  | .pop => 0x6
  | .enc => 0x7
  | .dec => 0x8
  | .cfg _ => 0x9

/-- The immediate byte of an operation; 0x00 where the map calls it unused (R46). -/
def Instr.immediate : Instr → Byte
  | .clr => 0x00
  | .abs imm => imm
  | .fin => 0x00
  | .csum => 0x00
  | .rstb => 0x00
  | .push imm => imm
  | .pop => 0x00
  | .enc => 0x00
  | .dec => 0x00
  | .cfg imm => imm

/-- The command word of an operation: "`(op << 8) + imm`, and of a mnemonic without immediate `op << 8`" (R52). -/
def encode (i : Instr) : CommandWord := (i.opcode.setWidth 12 <<< 8) + i.immediate.setWidth 12

/-- One row of spec/opcode_table.json as it is printed there: a word `w` belongs to the row when
`w & mask = pattern` (the table's "mask" and "match"). -/
structure OpcodeRow where
  mnemonic : String
  pattern : CommandWord
  mask : CommandWord
deriving DecidableEq, Repr

/-- The word belongs to the row. -/
def OpcodeRow.holds (r : OpcodeRow) (w : CommandWord) : Bool := w &&& r.mask == r.pattern

/-- spec/opcode_table.json, row by row. The decoder does not use it: it is the spec's second, independent
statement of the same map, kept so that the two can be proved to agree. -/
def opcodeTable : List OpcodeRow :=
  [⟨"CLR", 0x000, 0xFFF⟩, ⟨"ABS", 0x100, 0xF00⟩, ⟨"FIN", 0x200, 0xFFF⟩, ⟨"CSUM", 0x300, 0xFFF⟩,
   ⟨"RSTB", 0x400, 0xFFF⟩, ⟨"PUSH", 0x500, 0xF00⟩, ⟨"POP", 0x600, 0xFFF⟩, ⟨"ENC", 0x700, 0xFFF⟩,
   ⟨"DEC", 0x800, 0xFFF⟩, ⟨"CFG", 0x900, 0xFFE⟩]

/-- The mnemonic of an operation (R46). -/
def Instr.mnemonic : Instr → String
  | .clr => "CLR"
  | .abs _ => "ABS"
  | .fin => "FIN"
  | .csum => "CSUM"
  | .rstb => "RSTB"
  | .push _ => "PUSH"
  | .pop => "POP"
  | .enc => "ENC"
  | .dec => "DEC"
  | .cfg _ => "CFG"

/-- The operation the decoder reads from an instruction whose bits are `w`, of which the table gives `nbits`
(bits above them are 0). A command word has 12 bits (R45) and no operand words follow it, so a value of more
than 12 bits is no command word. -/
def decodeTableWord (nbits w : Nat) : Option Instr :=
  let bits := w % 2 ^ nbits
  if bits < 2 ^ 12 then decode (BitVec.ofNat 12 bits) else none

end Sys2Proof
end

