-- ==== Sys2Proof/Machine/Checksum.lean ====
section
/-! DEFINITION. The pure functions of the checksum engine (spec/40_checksum_engine.md R55 to R60), written as their
rules write them. -/

namespace Sys2Proof.Machine

/-- `TABLE`: 16 entries of 16 bits, a constant and no state (R16, R55). -/
def table : Vector Word16 16 :=
  #v[0x0000, 0x1021, 0x2042, 0x3063, 0x4084, 0x50a5, 0x60c6, 0x70e7,
     0x8108, 0x9129, 0xa14a, 0xb16b, 0xc18c, 0xd1ad, 0xe1ce, 0xf1ef]

/-- `TABLE[idx]`. -/
def tableEntry (idx : Nibble) : Word16 := table.get idx.toFin

/-- `RESERVED`, the byte values a checksum byte never has (R5, R16). -/
def reserved : List Byte := [0x28, 0x0D, 0x0A]

/-- `crc_nibble` (R56): `da` and the shift both use the accumulator from before the step. -/
def crcNibble (acc : Word16) (n : Nibble) : Word16 :=
  let da : Byte := ((acc >>> 8) >>> 4).setWidth 8
  let idx : Nibble := (da ^^^ n.setWidth 8).setWidth 4
  (acc <<< 4) ^^^ tableEntry idx

/-- `crc_byte` (R57): "its high nibble then its low nibble". -/
def crcByte (acc : Word16) (b : Byte) : Word16 := crcNibble (crcNibble acc (highNibble b)) (lowNibble b)

/-- The accumulator after the bytes of a sequence are absorbed in sequence order, starting from `acc`. -/
def absorb (acc : Word16) (bytes : List Byte) : Word16 := bytes.foldl crcByte acc

/-- `crc_raw` (R58), the raw checksum: the accumulator starts at 0. -/
def crcRaw (bytes : List Byte) : Word16 := absorb 0x0000 bytes

/-- `adj` (R60): a reserved byte is incremented once, modulo 256, with no carry into any other byte. -/
def adj (x : Byte) : Byte := if x = 0x28 ∨ x = 0x0D ∨ x = 0x0A then x + 1 else x

/-- `checksum` (R59): the adjusted pair, high byte first. -/
def checksum (bytes : List Byte) : Byte × Byte :=
  let a := crcRaw bytes
  (adj (highByte a), adj (lowByte a))

end Sys2Proof.Machine
end

