-- ==== Sys2Proof/Config.lean ====
section
/-! DEFINITION. The one implementation parameter that spec/00_scope.md R5 leaves open: `BUFSZ`. -/

namespace Sys2Proof

/-- A capacity of the frame buffer: "a natural number with `BUFSZ >= 3`, or unbounded" (R5). -/
inductive BufSize where
  /-- `BUFSZ` unbounded: no operation overflows. -/
  | unbounded
  /-- `BUFSZ = n`, at least the three bytes of the shortest frame. -/
  | bounded (n : Nat) (atLeastAFrame : 3 ≤ n)
deriving DecidableEq, Repr, Inhabited

/-- `BUFSZ` of the machine that `State.reset` describes. It has no body: nothing can be proved of its
value, so a statement about the reset state holds for every capacity.
DESIGN CHOICE (notes/assumptions/2.md), safe. -/
opaque Config.bufsz : BufSize

end Sys2Proof
end

