-- ==== Sys2Proof/Machine/State.lean ====
section
/-! DEFINITION. The state of the CFU (spec/10_state.md R10 to R25), its reset values, and the reasons a step of the
host's interface could stop. -/

namespace Sys2Proof.Machine

/-- The frame buffer's content: "a sequence of bytes of length `LEN`" (R12), index 0 the head (R30).
DESIGN CHOICE (notes/assumptions/3.md), safe: a sequence, not address and byte pairs. -/
abbrev Buffer := List Byte

/-- The results an operation can report in `ERR` (spec/60_exceptions.md R100). -/
inductive ErrKind where
  /-- The operation succeeded. -/
  | ok
  /-- The command word is illegal. -/
  | illegal
  /-- `PUSH` or `ENC` would exceed `BUFSZ`. -/
  | overflow
  /-- `POP` of an empty buffer. -/
  | empty
  /-- `ENC` or `DEC` met a payload byte of 0x80 or above. -/
  | nonascii
  /-- `DEC` of fewer than three bytes. -/
  | short
  /-- `DEC` of a buffer that does not end in the terminator. -/
  | term
  /-- `DEC` computed another checksum than it received. -/
  | cksum
  /-- `DEC`'s self-check disagreed; cannot occur (spec/43_frame_decoder.md R96). -/
  | internal
deriving DecidableEq, Repr

/-- What the host can do to the CFU: "it issues a 12-bit command word, or it asserts reset" (R20). -/
inductive HostEvent where
  /-- The host issues a command word. -/
  | command (w : CommandWord)
  /-- The host asserts reset (spec/70_reset_and_hazards.md R120). -/
  | reset
deriving DecidableEq, Repr

/-- The reasons to stop with a fault: there are none, "the CFU has no fault (nothing traps and every legal and
illegal word has a meaning)" (spec/60_exceptions.md R113). Nobody can raise one. -/
inductive Fault
deriving DecidableEq, Repr

/-- The reasons to refuse a step. -/
inductive Refusal where
  /-- An arm of `exec` whose instruction has no meaning yet, raised by no arm now. Safe: the machine stops where
  the hardware goes on. -/
  | notModelled (mnemonic : String)
deriving DecidableEq, Repr

/-- Everything the spec gives the machine (R17: the list is complete), and two fields of the model's own:
`bufsz`, the parameter `BUFSZ` (R5; notes/assumptions/2.md), and `host`, what the host has yet to do, oldest first
(R22: not CFU state; notes/assumptions/1.md). -/
structure State where
  /-- `ACC`, the accumulator (R10). -/
  acc : Word16
  /-- `CKH`, the adjusted high checksum byte (R11). -/
  ckh : Byte
  /-- `CKL`, the adjusted low checksum byte (R11). -/
  ckl : Byte
  /-- `BUF`, the frame buffer (R12); `LEN` is its length. -/
  buf : Buffer
  /-- `DOUT`, the data-out register (R13). -/
  dout : Byte
  /-- `ERR`, the result code of the last operation (R14). -/
  err : BitVec 4
  /-- `SELFCHK`, the configuration bit (R15). -/
  selfchk : Bool
  /-- `BUFSZ` (R5); no operation writes it. -/
  bufsz : BufSize
  /-- The host events not yet taken. -/
  host : List HostEvent
deriving DecidableEq, Repr

namespace State

/-- `LEN`, "a derived value, not a separate register" (R8, R12). -/
def len (s : State) : Nat := s.buf.length

/-- `ACC <- v`. -/
def setAcc (s : State) (v : Word16) : State := { s with acc := v }

/-- `CKH <- high` and `CKL <- low`, which are only ever written together (R11). -/
def setChecksum (s : State) (high low : Byte) : State := { s with ckh := high, ckl := low }

/-- `BUF <- b`. -/
def setBuf (s : State) (b : Buffer) : State := { s with buf := b }

/-- `DOUT <- v`. -/
def setDout (s : State) (v : Byte) : State := { s with dout := v }

/-- `ERR <- v`. -/
def setErr (s : State) (v : BitVec 4) : State := { s with err := v }

/-- `SELFCHK <- v`. -/
def setSelfchk (s : State) (v : Bool) : State := { s with selfchk := v }

/-- The host has yet to do `events`. -/
def setHost (s : State) (events : List HostEvent) : State := { s with host := events }

/-- The reset values (R24), for a CFU whose `BUFSZ` is `size`, with nothing issued yet. -/
def resetWith (size : BufSize) : State where
  acc := 0x0000
  ckh := 0x00
  ckl := 0x00
  buf := []
  dout := 0x00
  err := 0
  selfchk := false
  bufsz := size
  host := []

/-- The machine right after reset (R24, R120): "the CFU waits for the first command word". -/
def reset : State := resetWith Config.bufsz

end State

/-- What the status port shows the host between operations (R21). The content of `BUF` is not on it. -/
structure StatusPort where
  acc : Word16
  ckh : Byte
  ckl : Byte
  dout : Byte
  err : BitVec 4
  selfchk : Bool
  len : Nat
deriving DecidableEq, Repr

end Sys2Proof.Machine
end

