-- ==== Sys2Proof/Machine/Flags.lean ====
section
/-! DEFINITION. The result code `ERR`, the CFU's only flag (spec/10_state.md R14, R18; spec/60_exceptions.md R100 to
R103), and how an operation ends: `ok` or `raise` (spec/00_scope.md R8). -/

namespace Sys2Proof.Machine

/-- The number of each result (R100). -/
def errCode : ErrKind → BitVec 4
  | .ok => 0
  | .illegal => 1
  | .overflow => 2
  | .empty => 3
  | .nonascii => 4
  | .short => 5
  | .term => 6
  | .cksum => 7
  | .internal => 8

/-- `raise ERR_X`: "`ERR <- code(ERR_X)` and the operation ends" (R8). An error is a result, not a trap: the
state that follows is an ordinary next state (R101). -/
def raise (e : ErrKind) (s : State) : State := s.setErr (errCode e)

/-- `ok`: "`ERR <- 0` (`ERR_OK`) and the operation ends" (R8). -/
def ok (s : State) : State := s.setErr (errCode .ok)

/-- An illegal command word: "`ERR <- 1`, and no other state changes" (spec/30_encoding.md R50). -/
def illegalWord (s : State) : State := raise .illegal s

/-- The classes of the source document's operation-level taxonomy that a CFU result can map to (R103). -/
inductive AxpClass where
  /-- "checksum mismatch or malformed terminator". -/
  | frameCorrupt
  /-- "bad/missing command parameter, caller's fault, fails before any I/O". -/
  | invalidArgument
deriving DecidableEq, Repr

/-- The operations whose failures the taxonomy speaks of. -/
inductive CodecOp where
  | enc
  | dec
deriving DecidableEq, Repr

/-- R103: every failure of `DEC` (codes 4 to 8) is `FrameCorrupt`; `ERR_NONASCII` from `ENC` is `InvalidArgument`;
misuse of the CFU by its host has no class. -/
def axpClass : CodecOp → ErrKind → Option AxpClass
  | .enc, .nonascii => some .invalidArgument
  | .dec, .nonascii => some .frameCorrupt
  | .dec, .short => some .frameCorrupt
  | .dec, .term => some .frameCorrupt
  | .dec, .cksum => some .frameCorrupt
  | .dec, .internal => some .frameCorrupt
  | _, _ => none

end Sys2Proof.Machine
end

