-- ==== Sys2Proof/Machine/Codec.lean ====
section
/-! DEFINITION. The pure functions `encode` and `decode` of the frame codec (spec/42_frame_encoder.md R80 to R82,
spec/43_frame_decoder.md R90 to R93). The operations `ENC` and `DEC` do not call them: they are the spec's own functions,
which the operations are to be proved equal to (spec/10_state.md R26). -/

namespace Sys2Proof.Machine

/-- `TERM`, the terminator byte, not configurable (spec/00_scope.md R5, spec/10_state.md R16). -/
def terminator : Byte := 0x0D

/-- `ascii_ok` (R81): every byte is at most 0x7F (`ASCII_MAX`, R5). -/
def asciiOk (p : List Byte) : Bool := p.all fun b => b.toNat ≤ 0x7F

/-- A frame (spec/30_encoding.md R40): payload, checksum high, checksum low, terminator. -/
def frame (p : List Byte) : List Byte := p ++ [(checksum p).1, (checksum p).2, terminator]

/-- Why `encode` fails (R80; the name is the spec's own). -/
inductive EncodeFailure where
  | invalidPayload
deriving DecidableEq, Repr

/-- Why `decode` fails (R90). -/
inductive DecodeFailure where
  | tooShort
  | malformedTerminator
  | checksumMismatch
  | nonAsciiPayload
  | internalInconsistency
deriving DecidableEq, Repr

/-- The code under which `ENC` reports a failure of `encode` (R100). -/
def encodeFailureKind : EncodeFailure → ErrKind
  | .invalidPayload => .nonascii

/-- The code under which `DEC` reports a failure of `decode` (R100, R102). -/
def decodeFailureKind : DecodeFailure → ErrKind
  | .tooShort => .short
  | .malformedTerminator => .term
  | .checksumMismatch => .cksum
  | .nonAsciiPayload => .nonascii
  | .internalInconsistency => .internal

/-- `encode(p)` (R80): a payload that is not 7-bit is rejected whole (R82). -/
def encodePayload (p : List Byte) : Except EncodeFailure (List Byte) :=
  if asciiOk p then .ok (frame p) else .error .invalidPayload

/-- Check 5 of `decode` (R90, R95): the candidate re-encodes to the whole input. A rejected re-encoding counts as a
disagreement (spec/91_not_in_source.md N18). -/
def reencodesTo (cand raw : List Byte) : Bool :=
  match encodePayload cand with
  | .ok f => f == raw
  | .error _ => false

/-- `decode(raw, selfchk)` (R90), its five checks in order. The fields are found from the tail (R41), and no earlier
terminator is searched for (R92). -/
def decodeFrame (raw : List Byte) (selfchk : Bool) : Except DecodeFailure (List Byte) :=
  let n := raw.length
  let cand := raw.take (n - 3)
  if n < 3 then .error .tooShort
  else if raw[n - 1]? ≠ some terminator then .error .malformedTerminator
  else if some (checksum cand).1 ≠ raw[n - 3]? ∨ some (checksum cand).2 ≠ raw[n - 2]? then .error .checksumMismatch
  else if asciiOk cand = false then .error .nonAsciiPayload
  else if selfchk = true ∧ reencodesTo cand raw = false then .error .internalInconsistency
  else .ok cand

end Sys2Proof.Machine
end

