-- ==== Sys2Proof/Machine/Ops.lean ====
section
/-! DEFINITION. The named operations over the buffer and the registers that the meanings share: reads and writes of
`BUF`, its capacity, latching a checksum, the status port, reset, and taking the host's next event. The CFU has no
exceptions to take or return from (spec/60_exceptions.md R101, R107); how an operation ends is in Flags.lean. -/

namespace Sys2Proof.Machine

/-! ### The frame buffer (spec/20_memory.md R30, R31) -/

/-- `BUF[i]`: the byte at index `i`, none where the index is `LEN` or above ("do not exist", R31). -/
def byteAt (b : Buffer) (i : Nat) : Option Byte := b[i]?

/-- The buffer as address and byte pairs, from address `i` on. -/
def cellsFrom : Nat → Buffer → List Host.Cell
  | _, [] => []
  | i, b :: rest => (i, b) :: cellsFrom (i + 1) rest

/-- The buffer as address and byte pairs: the index is the address, and an unlisted address does not exist. -/
def memoryCells (b : Buffer) : List Host.Cell := cellsFrom 0 b

/-- The addresses of the list rise strictly. -/
def addressesRise : List Host.Cell → Bool
  | [] => true
  | [_] => true
  | a :: b :: rest => decide (a.1 < b.1) && addressesRise (b :: rest)

/-- The canonical form of a memory: its addresses rise strictly, and since no unlisted address reads as anything, no
entry can equal what an unlisted one reads as. Every buffer has it (Laws/Buffer.lean). -/
def Memory.wf (b : Buffer) : Bool := addressesRise (memoryCells b)

/-- `LEN = BUFSZ`, the test of `PUSH` (spec/41_buffer_and_config.md R71). The comparison with 3 comes first because
`BUFSZ >= 3` decides a shorter buffer whatever the capacity is. -/
def isFull (size : BufSize) (len : Nat) : Bool :=
  decide (3 ≤ len) && match size with
    | .unbounded => false
    | .bounded n _ => len == n

/-- `len > BUFSZ`, the test of `ENC` on `LEN + 3` (spec/42_frame_encoder.md R83); a length of at most 3 never exceeds
a capacity. -/
def exceeds (size : BufSize) (len : Nat) : Bool :=
  decide (3 < len) && match size with
    | .unbounded => false
    | .bounded n _ => decide (n < len)

/-! ### The checksum registers -/

/-- `CKH <- adj(ACC[15:8])`, `CKL <- adj(ACC[7:0])` (spec/40_checksum_engine.md R64). -/
def finalise (s : State) : State := s.setChecksum (adj (highByte s.acc)) (adj (lowByte s.acc))

/-- `ACC <- crc_raw(bytes)`, from 0 and not from the old `ACC`, and then both checksum bytes: what `CSUM`, `ENC` and
`DEC` do with the bytes they sweep (R65, R83, R94). -/
def latchChecksum (bytes : List Byte) (s : State) : State := finalise (s.setAcc (crcRaw bytes))

/-! ### The host's side -/

/-- Reading the status port: changes nothing and is no operation (spec/10_state.md R21). -/
def readStatus (s : State) : StatusPort where
  acc := s.acc
  ckh := s.ckh
  ckl := s.ckl
  dout := s.dout
  err := s.err
  selfchk := s.selfchk
  len := s.len

/-- The host asserts reset: the whole state of the CFU is replaced by the reset state, whatever it was
(spec/70_reset_and_hazards.md R120). `BUFSZ` and what the host has yet to do are not CFU state and stay.
DEDUCED (notes/assumptions/4.md), safe. -/
def assertReset (s : State) : State := (State.resetWith s.bufsz).setHost s.host

/-- The host's next event, and the state in which it has been taken; none while the host does nothing. Events are
taken one at a time in the order in which the host issues them (spec/20_memory.md R39). -/
def takeEvent (s : State) : Option (HostEvent × State) :=
  match s.host with
  | [] => none
  | e :: rest => some (e, s.setHost rest)

/-- Between operations the CFU "holds its state and does nothing" (spec/60_exceptions.md R112). -/
def hold (s : State) : State := s

/-- The host issues word `w` before everything else it has yet to do. A number of more than 12 bits is no command word
(spec/30_encoding.md R45), so the host cannot issue it. -/
def issueNext (w : Nat) (s : State) : State :=
  if w < 2 ^ 12 then s.setHost (.command (BitVec.ofNat 12 w) :: s.host) else s

end Sys2Proof.Machine
end

