-- ==== Sys2Proof/Machine/BufferConfig.lean ====
section
/-! DEFINITION. The buffer and configuration operations (spec/41_buffer_and_config.md R70 to R73). -/

namespace Sys2Proof.Machine

/-- `RSTB` (R70). -/
def execRstb (s : State) : Host.Outcome State Fault Refusal :=
  .next (ok (s.setBuf []))

/-- `PUSH imm` (R71): a full buffer loses the byte and keeps its content. The test is the rule's own `LEN = BUFSZ`,
also in states longer than `BUFSZ`, which no run reaches (notes/assumptions/5.md). -/
def execPush (imm : Byte) (s : State) : Host.Outcome State Fault Refusal :=
  .next (if isFull s.bufsz s.len then raise .overflow s else ok (s.setBuf (s.buf ++ [imm])))

/-- `POP` (R72): an empty buffer leaves `DOUT` as it was. -/
def execPop (s : State) : Host.Outcome State Fault Refusal :=
  .next (match s.buf with
    | [] => raise .empty s
    | head :: rest => ok ((s.setDout head).setBuf rest))

/-- `CFG imm` (R73). With `imm[7:1]` not 0 the word is illegal and `SELFCHK` keeps its value; the decoder lets no such
operation through (DEDUCED, notes/assumptions/7.md, safe). -/
def execCfg (imm : Byte) (s : State) : Host.Outcome State Fault Refusal :=
  .next (if cfgImmLegal imm then ok (s.setSelfchk (selfchkBit imm)) else illegalWord s)

end Sys2Proof.Machine
end

