-- ==== Sys2Proof/Machine/Decoder.lean ====
section
/-! DEFINITION. The frame decoder's operation (spec/43_frame_decoder.md R94, R95). -/

namespace Sys2Proof.Machine

/-- `BUF[0 .. n-3)`, the candidate payload (R94). -/
def candidate (b : Buffer) : Buffer := b.take (b.length - 3)

/-- `BUF[n-1] = 0x0D`, what check 2 asks (R94). -/
def endsInTerminator (b : Buffer) : Bool := byteAt b (b.length - 1) == some terminator

/-- `CKH = BUF[n-3]` and `CKL = BUF[n-2]`, what check 3 asks: two byte comparisons (R94, spec/20_memory.md R34). -/
def checksumMatches (s : State) : Bool :=
  byteAt s.buf (s.len - 3) == some s.ckh && byteAt s.buf (s.len - 2) == some s.ckl

/-- `selfcheck_ok` (R95): the candidate with its checksum and the terminator is the whole buffer. -/
def selfcheckOk (s : State) : Bool := candidate s.buf ++ [s.ckh, s.ckl, terminator] == s.buf

/-- Checks 3 to 5 of `DEC` and its end (R94), on the state in which `ACC`, `CKH`, `CKL` hold the recomputed checksum. -/
def decideFrame (s : State) : State :=
  if checksumMatches s = false then raise .cksum s
  else if asciiOk (candidate s.buf) = false then raise .nonascii s
  else if s.selfchk = true ∧ selfcheckOk s = false then raise .internal s
  else ok (s.setBuf (candidate s.buf))

/-- `DEC` (R94): the first failing check is reported (spec/60_exceptions.md R105), and the recomputed checksum stays
in the registers from check 3 on. -/
def execDec (s : State) : Host.Outcome State Fault Refusal :=
  .next (if s.len < 3 then raise .short s
    else if endsInTerminator s.buf = false then raise .term s
    else decideFrame (latchChecksum (candidate s.buf) s))

end Sys2Proof.Machine
end

