-- ==== Sys2Proof/Machine/Encoder.lean ====
section
/-! DEFINITION. The frame encoder's operation (spec/42_frame_encoder.md R83). -/

namespace Sys2Proof.Machine

/-- `BUF <- BUF ++ [CKH, CKL, 0x0D]`, the last write of `ENC` (R83). -/
def appendTrailer (s : State) : State := s.setBuf (s.buf ++ [s.ckh, s.ckl, terminator])

/-- `ENC` (R83): both checks are made before the engine starts, so a failure changes `ERR` alone; when both apply the
7-bit check is reported (spec/60_exceptions.md R105). -/
def execEnc (s : State) : Host.Outcome State Fault Refusal :=
  .next (if asciiOk s.buf = false then raise .nonascii s
    else if exceeds s.bufsz (s.len + 3) then raise .overflow s
    else ok (appendTrailer (latchChecksum s.buf s)))

end Sys2Proof.Machine
end

