-- ==== Sys2Proof/Machine/Engine.lean ====
section
/-! DEFINITION. The operations of the checksum engine (spec/40_checksum_engine.md R62 to R65). None of them can fail. -/

namespace Sys2Proof.Machine

/-- `CLR` (R62). -/
def execClr (s : State) : Host.Outcome State Fault Refusal :=
  .next (ok (s.setAcc 0x0000))

/-- `ABS imm` (R63): uses whatever `ACC` holds. -/
def execAbs (imm : Byte) (s : State) : Host.Outcome State Fault Refusal :=
  .next (ok (s.setAcc (crcByte s.acc imm)))

/-- `FIN` (R64): `ACC` is not changed. -/
def execFin (s : State) : Host.Outcome State Fault Refusal :=
  .next (ok (finalise s))

/-- `CSUM` (R65): no 7-bit test, `BUF` is not changed. -/
def execCsum (s : State) : Host.Outcome State Fault Refusal :=
  .next (ok (latchChecksum s.buf s))

end Sys2Proof.Machine
end

