-- ==== Sys2Proof/Machine/Dispatch.lean ====
section
/-! DEFINITION. What each operation does: one arm per constructor of Instr, one meaning per arm. -/

namespace Sys2Proof.Machine

def exec (i : Instr) (s : State) : Host.Outcome State Fault Refusal :=
  match i with
  | .clr => Sys2Proof.Machine.execClr s
  | .abs imm => Sys2Proof.Machine.execAbs imm s
  | .fin => Sys2Proof.Machine.execFin s
  | .csum => Sys2Proof.Machine.execCsum s
  | .rstb => Sys2Proof.Machine.execRstb s
  | .push imm => Sys2Proof.Machine.execPush imm s
  | .pop => Sys2Proof.Machine.execPop s
  | .enc => Sys2Proof.Machine.execEnc s
  | .dec => Sys2Proof.Machine.execDec s
  | .cfg imm => Sys2Proof.Machine.execCfg imm s

end Sys2Proof.Machine
end

