-- ==== Sys2Proof/Machine/Step.lean ====
section
/-! DEFINITION. One step of the machine: the host's next event (spec/10_state.md R20). The CFU fetches nothing and has
no program counter (R22); the word comes from the host. -/

namespace Sys2Proof.Machine

/-- The step on one command word, R20's `step : State x CommandWord -> State`: a legal word is its operation, an
illegal one reports `ERR_ILLEGAL` (spec/30_encoding.md R49, R50). -/
def executeWord (w : CommandWord) (s : State) : Host.Outcome State Fault Refusal :=
  match decode w with
  | some i => exec i s
  | none => .next (illegalWord s)

/-- One step: what the host does next, or nothing while it does nothing (R20, R112). -/
def step (s : State) : Host.Outcome State Fault Refusal :=
  match takeEvent s with
  | none => .next (hold s)
  | some (.command w, s') => executeWord w s'
  | some (.reset, s') => .next (assertReset s')

/-- `s` with the word `w` issued as the host's very next command. -/
def State.withFetchWord (s : State) (nbits w : Nat) : State := issueNext (w % 2 ^ nbits) s

end Sys2Proof.Machine
end

