-- ==== Sys2Proof/Machine/Assembler.lean ====
section
/-! DEFINITION. The assembler's lines (spec/30_encoding.md R52): one operation a line, no labels, expressions or directives.
What R52 does not settle is in notes/assumptions/10.md. -/

namespace Sys2Proof.Machine

/-- The value of a hexadecimal digit. -/
def hexDigit (c : Char) : Option Nat :=
  if '0' ≤ c ∧ c ≤ '9' then some (c.toNat - 48)
  else if 'A' ≤ c ∧ c ≤ 'F' then some (c.toNat - 55)
  else if 'a' ≤ c ∧ c ≤ 'f' then some (c.toNat - 87)
  else none

/-- Only spaces stand before the end of the line or before a `;`, which "starts a comment that runs to the end of the
line" (R52). -/
def restIsComment : List Char → Bool
  | [] => true
  | c :: rest => if c = ' ' then restIsComment rest else c == ';'

/-- A decimal number, read on from the value `acc`, and what follows it. -/
def decimalFrom (acc : Nat) : List Char → Nat × List Char
  | [] => (acc, [])
  | c :: rest => if '0' ≤ c ∧ c ≤ '9' then decimalFrom (10 * acc + (c.toNat - 48)) rest else (acc, c :: rest)

/-- An immediate and what follows it (R52): `0x` and two hexadecimal digits, or one printable ASCII character between
single quotes, or a decimal number 0 to 255. R52 does not say whether a decimal number may have leading zeros (007, 00), nor
whether the quoted character may be the single quote itself: both are taken here.
DESIGN CHOICE (notes/assumptions/10.md), safe. -/
def immediateOf : List Char → Option (Byte × List Char)
  | '0' :: 'x' :: a :: b :: rest =>
    match hexDigit a, hexDigit b with
    | some x, some y => some (BitVec.ofNat 8 (16 * x + y), rest)
    | _, _ => none
  | '\'' :: c :: '\'' :: rest =>
    if 0x20 ≤ c.toNat ∧ c.toNat ≤ 0x7E then some (BitVec.ofNat 8 c.toNat, rest) else none
  | c :: rest =>
    if '0' ≤ c ∧ c ≤ '9' then
      let v := decimalFrom 0 (c :: rest)
      if v.1 < 256 then some (BitVec.ofNat 8 v.1, v.2) else none
    else none
  | [] => none

/-- The mnemonic at the head of a line: its capital letters, and what follows them. -/
def mnemonicOf : List Char → List Char × List Char
  | [] => ([], [])
  | c :: rest => if 'A' ≤ c ∧ c ≤ 'Z' then (c :: (mnemonicOf rest).1, (mnemonicOf rest).2) else ([], c :: rest)

/-- The operation without immediate of a mnemonic (R46). -/
def plainOperation : List Char → Option Instr
  | ['C', 'L', 'R'] => some .clr
  | ['F', 'I', 'N'] => some .fin
  | ['C', 'S', 'U', 'M'] => some .csum
  | ['R', 'S', 'T', 'B'] => some .rstb
  | ['P', 'O', 'P'] => some .pop
  | ['E', 'N', 'C'] => some .enc
  | ['D', 'E', 'C'] => some .dec
  | _ => none

/-- The operation with immediate of a mnemonic (R46): `ABS`, `PUSH`, `CFG`. -/
def immOperation : List Char → Option (Byte → Instr)
  | ['A', 'B', 'S'] => some .abs
  | ['P', 'U', 'S', 'H'] => some .push
  | ['C', 'F', 'G'] => some .cfg
  | _ => none

/-- The operation a line stands for (R52): the mnemonic in capitals, then for `ABS`, `PUSH` and `CFG` one space and
the immediate. None for every other line. -/
def assembleLine (line : List Char) : Option Instr :=
  let (name, rest) := mnemonicOf line
  match plainOperation name, immOperation name, rest with
  | some i, _, _ => if restIsComment rest then some i else none
  | none, some f, ' ' :: operand =>
    match immediateOf operand with
    | some (imm, after) => if restIsComment after then some (f imm) else none
    | none => none
  | none, _, _ => none

/-- The digit of a value below 16, in capitals. -/
def digitOf (n : Nat) : Char := if n < 10 then Char.ofNat (48 + n) else Char.ofNat (55 + n)

/-- An immediate as `0x` and two hexadecimal digits (R52). -/
def hexImmediate (b : Byte) : List Char := ['0', 'x', digitOf (b.toNat / 16), digitOf (b.toNat % 16)]

/-- The line of an operation (R52): mnemonic, and for the three operations with an immediate one space and the
immediate. -/
def printLine : Instr → List Char
  | .clr => ['C', 'L', 'R']
  | .abs imm => ['A', 'B', 'S', ' '] ++ hexImmediate imm
  | .fin => ['F', 'I', 'N']
  | .csum => ['C', 'S', 'U', 'M']
  | .rstb => ['R', 'S', 'T', 'B']
  | .push imm => ['P', 'U', 'S', 'H', ' '] ++ hexImmediate imm
  | .pop => ['P', 'O', 'P']
  | .enc => ['E', 'N', 'C']
  | .dec => ['D', 'E', 'C']
  | .cfg imm => ['C', 'F', 'G', ' '] ++ hexImmediate imm

/-- The command word of a line; an illegal immediate of `CFG` assembles to an illegal word, which the CFU reports
(R50). -/
def assembleWord (line : List Char) : Option CommandWord := (assembleLine line).map Sys2Proof.encode

end Sys2Proof.Machine
end

