-- ==== Sys2Proof/Machine/Exchange.lean ====
section
/-! DEFINITION. One exchange at a time (spec/70_reset_and_hazards.md R126; spec/93_implementation_defined.md U1): the host
that keeps its duty, which has no move that mixes the bytes of two frames in `BUF`. The CFU does not know of it: `step`
executes every word in every state (spec/10_state.md R20), and "does not detect a violation" (R126). What R126 leaves open
about the moves is settled in notes/assumptions/9.md. -/

namespace Sys2Proof.Machine

/-- A move of the host: a command word together with the frame for which the host issues it, or reset. The frame's number
is the host's own; the CFU gets the word alone. -/
inductive HostMove where
  /-- The host issues a command word for a frame. -/
  | command (frame : Nat) (w : CommandWord)
  /-- The host asserts reset. -/
  | reset
deriving DecidableEq, Repr

/-- What the CFU sees of a move. -/
def HostMove.event : HostMove → HostEvent
  | .command _ w => .command w
  | .reset => .reset

/-- What the host keeps in mind about `BUF`. -/
structure Ledger where
  /-- The frame that `BUF` serves; none after reset. -/
  frame : Option Nat
  /-- The operations on `BUF` issued for that frame since its `RSTB` (or since reset), oldest first. -/
  ops : List Instr
  /-- `ENC` or `DEC` is among them: no further byte can belong to the frame. -/
  complete : Bool
deriving DecidableEq, Repr

/-- After reset `BUF` serves no frame. -/
def Ledger.free : Ledger where
  frame := none
  ops := []
  complete := false

/-- `BUF` may serve frame `f`: it serves it already, or none. -/
def Ledger.serves (l : Ledger) (f : Nat) : Bool := l.frame == none || l.frame == some f

/-- Whether the host has the move that issues this operation for frame `f`, where the status port shows `len` as `LEN`
(R126). "every `PUSH` must belong to that one frame": it must be the frame `BUF` serves, which takes no byte after its `ENC`
or `DEC`. "The host must finish draining": another frame's `RSTB` waits until `BUF` is empty. The operations that do not
write `BUF` are free. Frames are not told apart as requests and responses: a second request may be encoded and drained before
the first one's response is decoded, since no bytes mix in `BUF`. DESIGN CHOICE (notes/assumptions/9.md), safe: the host has
more moves than one that awaits each response. -/
def Ledger.permitsOp (l : Ledger) (len : Nat) (f : Nat) : Instr → Bool
  | .push _ => l.serves f && !l.complete
  | .rstb => l.serves f || len == 0
  | .pop => l.serves f
  | .enc => l.serves f
  | .dec => l.serves f
  | .clr => true
  | .abs _ => true
  | .fin => true
  | .csum => true
  | .cfg _ => true

/-- Whether the host has a move. An illegal word changes nothing but `ERR` (spec/30_encoding.md R50) and reset empties `BUF`,
so neither can mix two frames. -/
def Ledger.permits (l : Ledger) (len : Nat) : HostMove → Bool
  | .reset => true
  | .command f w =>
    match decode w with
    | some i => l.permitsOp len f i
    | none => true

/-- The operation `i` on `BUF` is issued for frame `f`. -/
def Ledger.add (l : Ledger) (f : Nat) (i : Instr) (completes : Bool) : Ledger where
  frame := some f
  ops := l.ops ++ [i]
  complete := l.complete || completes

/-- The ledger after an operation is issued for frame `f`. -/
def Ledger.recordOp (l : Ledger) (f : Nat) : Instr → Ledger
  | .rstb => { frame := some f, ops := [], complete := false }
  | .push b => l.add f (.push b) false
  | .pop => l.add f .pop false
  | .enc => l.add f .enc true
  | .dec => l.add f .dec true
  | .clr => l
  | .abs _ => l
  | .fin => l
  | .csum => l
  | .cfg _ => l

/-- The ledger after a move. -/
def Ledger.record (l : Ledger) : HostMove → Ledger
  | .reset => Ledger.free
  | .command f w =>
    match decode w with
    | some i => l.recordOp f i
    | none => l

/-- One move of the host that keeps its duty, and the CFU's step on it; none where the host has no such move. -/
def conductMove (l : Ledger) (s : State) (m : HostMove) : Option (Ledger × State) :=
  if l.permits (readStatus s).len m then
    match step (s.setHost [m.event]) with
    | .next t => some (l.record m, t)
    | .fault _ => none
    | .refused _ => none
  else none

/-- A run of the host that keeps its duty: move after move, none where it has not all of them. -/
def conduct : List HostMove → Ledger → State → Option (Ledger × State)
  | [], l, s => some (l, s)
  | m :: rest, l, s =>
    match conductMove l s m with
    | some (l', t) => conduct rest l' t
    | none => none

end Sys2Proof.Machine
end

