-- ==== Sys2Proof/Machine/Pseudo.lean ====
section
/-! DEFINITION. The pseudo-operations (spec/30_encoding.md R53). -/

namespace Sys2Proof.Machine

/-- A pseudo-operation with its operand sequence. -/
inductive Pseudo where
  /-- `ABSS s`. -/
  | abss (s : List Byte)
  /-- `PUSHS s`. -/
  | pushs (s : List Byte)
  /-- `CHECKSUM s`. -/
  | checksum (s : List Byte)
  /-- `ENCODE s`. -/
  | encode (s : List Byte)
  /-- `DECODE s`. -/
  | decode (s : List Byte)
  /-- `DRAIN`. -/
  | drain
deriving DecidableEq, Repr

/-- The expansion, "and to nothing else" (R53). `len` is `LEN` as the status port shows it before the first operation;
only `DRAIN` uses it. -/
def expand (len : Nat) : Pseudo → List Instr
  | .abss s => s.map .abs
  | .pushs s => s.map .push
  | .checksum s => .clr :: s.map .abs ++ [.fin]
  | .encode s => .rstb :: s.map .push ++ [.enc]
  | .decode s => .rstb :: s.map .push ++ [.dec]
  | .drain => List.replicate len .pop

end Sys2Proof.Machine
end

