-- ==== Sys2Proof/Machine/Run.lean ====
section
/-! DEFINITION. Runs: "reset, then a finite list of operations; it ends when the list ends" (spec/10_state.md R22). -/

namespace Sys2Proof.Machine

/-- Goes on from the state a step answers; stops where the step stopped. -/
def continueWith (o : Host.Outcome State Fault Refusal) (k : State → Host.Outcome State Fault Refusal) :
    Host.Outcome State Fault Refusal :=
  match o with
  | .next s => k s
  | .fault r => .fault r
  | .refused r => .refused r

/-- The operations of a list, one after the other. -/
def execAll : List Instr → State → Host.Outcome State Fault Refusal
  | [], s => .next s
  | i :: rest, s => continueWith (exec i s) (execAll rest)

/-- As many steps as the number says. -/
def steps : Nat → State → Host.Outcome State Fault Refusal
  | 0, s => .next s
  | k + 1, s => continueWith (step s) (steps k)

/-- The host will issue the words of these operations next, before anything else. -/
def issueAll (is : List Instr) (s : State) : State := s.setHost (is.map (fun i => .command (encode i)) ++ s.host)

end Sys2Proof.Machine
end

