-- ==== Sys2Proof/Safety.lean ====
section
/-! DEFINITION. What counts as a safe state: the invariants of spec/10_state.md R25. -/

namespace Sys2Proof.Machine

/-- `len <= BUFSZ` (R25 point 1). -/
def withinCapacity (size : BufSize) (len : Nat) : Bool :=
  match size with
  | .unbounded => true
  | .bounded n _ => decide (len ≤ n)

/-- What "every state reachable from reset satisfies" (R25). Point 4, the widths, holds by the types of State. -/
structure State.Inv (s : State) : Prop where
  /-- Point 1: `0 <= LEN <= BUFSZ`. -/
  lenWithinCapacity : withinCapacity s.bufsz s.len = true
  /-- Point 2: `ERR` is in `0 .. 8`. -/
  errAtMostEight : s.err.toNat ≤ 8
  /-- Point 3: `CKH` is not in `RESERVED`. -/
  ckhNotReserved : s.ckh ∉ reserved
  /-- Point 3: `CKL` is not in `RESERVED`. -/
  cklNotReserved : s.ckl ∉ reserved

/-- The states a machine of capacity `size` can come to (R22): from reset, by steps, and by the host's deciding anew, at
any time and from whatever it has seen on the status port, what it will do next. The host here is unrestricted, so what
holds of these states holds whatever the host does; the host that keeps R126's duty is `conduct` (Machine/Exchange.lean),
whose runs are among these. -/
inductive Reachable (size : BufSize) : State → Prop where
  | start : Reachable size (State.resetWith size)
  | issue (s : State) (events : List HostEvent) : Reachable size s → Reachable size (s.setHost events)
  | step (s t : State) : Reachable size s → Machine.step s = .next t → Reachable size t

end Sys2Proof.Machine
end

