-- ==== Sys2Proof/Certificates/Slice0/Obligations.lean ====
section
/-! DEFINITION. The statements for the provers, from the numbered rules of spec/. Every operation answers a next state
in every state (spec/10_state.md R20), so the statements of results are equations `exec i s = .next t`. -/

namespace Sys2Proof.Spec

open Sys2Proof.Machine

/-! ### The spec's formulas on unsigned integers (spec/00_scope.md R6) -/

/-- The closed form of `TABLE[i]` (spec/40_checksum_engine.md R55). -/
def tableValue (i : Nat) : Nat := (i <<< 12) ^^^ (i <<< 5) ^^^ i

/-- `crc_nibble` as R56 writes it, on unsigned integers, with the table by its closed form. -/
def nibbleStep (acc n : Nat) : Nat :=
  let da := ((acc >>> 8) >>> 4) &&& 0xFF
  let idx := (da ^^^ n) &&& 0xF
  ((acc <<< 4) &&& 0xFFFF) ^^^ tableValue idx

/-- `crc_byte` as R57 writes it, on unsigned integers. -/
def byteStep (acc b : Nat) : Nat := nibbleStep (nibbleStep acc (b >>> 4)) (b % 16)

/-- `adj` as R60 writes it, on unsigned integers. -/
def adjusted (x : Nat) : Nat := if x = 0x28 ∨ x = 0x0D ∨ x = 0x0A then (x + 1) % 256 else x

/-- One shift-left-and-conditionally-exclusive-or-0x1021 step with an input bit (R61 point 4). -/
def bitStep (acc : Word16) (bit : Bool) : Word16 :=
  if acc.msb ^^ bit then (acc <<< 1) ^^^ 0x1021 else acc <<< 1

/-- The bits of a byte, most significant bit first. -/
def bitsOf (b : Byte) : List Bool := [7, 6, 5, 4, 3, 2, 1, 0].map b.getLsbD

/-- The bit-serial form of `crc_raw`: a shift register that starts at 0 (R61 point 4, R68). -/
def bitSerial (bytes : List Byte) : Word16 := (bytes.flatMap bitsOf).foldl bitStep 0

/-! ### Command words -/

/-- Which words are illegal (spec/30_encoding.md R50, first sentence), on the fields as unsigned integers. -/
def IllegalWord (w : Nat) : Prop :=
  0xA ≤ w / 256 ∨ (w / 256 ∈ [0x0, 0x2, 0x3, 0x4, 0x6, 0x7, 0x8] ∧ w % 256 ≠ 0x00) ∨ (w / 256 = 0x9 ∧ w % 256 / 2 ≠ 0)

/-! ### Buffers, capacities, frames -/

/-- `n` bytes do not exceed `BUFSZ` (R5). -/
def Fits (size : BufSize) (n : Nat) : Prop := ∀ cap h, size = .bounded cap h → n ≤ cap

/-- Every byte is at most 0x7F (R81). -/
def SevenBit (p : List Byte) : Prop := ∀ b ∈ p, b.toNat ≤ 0x7F

/-- The checksum pair of a sequence on the spec's own terms: the two bytes of the raw checksum, adjusted. -/
def IsChecksum (p : List Byte) (high low : Byte) : Prop :=
  high.toNat = adjusted ((crcRaw p).toNat / 256) ∧ low.toNat = adjusted ((crcRaw p).toNat % 256)

/-- The two sequences have the same length and differ in exactly one byte. -/
def DifferInOneByte (p q : List Byte) : Prop :=
  ∃ front back x y, x ≠ y ∧ p = front ++ x :: back ∧ q = front ++ y :: back

/-! ### Who writes and who reads what (spec/10_state.md R19) -/

/-- The operations that R19 lets write `ACC`. -/
def mayWriteAcc : Instr → Bool
  | .clr => true
  | .abs _ => true
  | .csum => true
  | .enc => true
  | .dec => true
  | .fin => false
  | .rstb => false
  | .push _ => false
  | .pop => false
  | .cfg _ => false

/-- The operations that R19 lets write `CKH` and `CKL`. -/
def mayWriteChecksum : Instr → Bool
  | .fin => true
  | .csum => true
  | .enc => true
  | .dec => true
  | .clr => false
  | .abs _ => false
  | .rstb => false
  | .push _ => false
  | .pop => false
  | .cfg _ => false

/-- The operations that R19 lets write `BUF`. -/
def mayWriteBuf : Instr → Bool
  | .rstb => true
  | .push _ => true
  | .pop => true
  | .enc => true
  | .dec => true
  | .clr => false
  | .abs _ => false
  | .fin => false
  | .csum => false
  | .cfg _ => false

/-- The operation is a `CFG`. -/
def isCfg : Instr → Bool
  | .cfg _ => true
  | .clr => false
  | .abs _ => false
  | .fin => false
  | .csum => false
  | .rstb => false
  | .push _ => false
  | .pop => false
  | .enc => false
  | .dec => false

/-- The codes that each operation can report (spec/60_exceptions.md R100). The code 1 of a `CFG` term whose immediate is
illegal is the model's reading (notes/assumptions/7.md). -/
def mayReport (i : Instr) : List (BitVec 4) :=
  match i with
  | .clr => [0]
  | .abs _ => [0]
  | .fin => [0]
  | .csum => [0]
  | .rstb => [0]
  | .push _ => [0, 2]
  | .pop => [0, 3]
  | .enc => [0, 2, 4]
  | .dec => [0, 4, 5, 6, 7]
  | .cfg imm => if imm.toNat ≤ 1 then [0] else [1]

/-- The operations whose effect on the status port does not depend on what the bytes of `BUF` are (R19, R31). -/
def blindToContent : Instr → Bool
  | .clr => true
  | .abs _ => true
  | .fin => true
  | .rstb => true
  | .push _ => true
  | .cfg _ => true
  | .csum => false
  | .pop => false
  | .enc => false
  | .dec => false

/-! ### The host's moves (spec/70_reset_and_hazards.md R126) -/

/-- The moves that issue these operations for frame `f`. -/
def movesFor (f : Nat) (is : List Instr) : List HostMove := is.map fun i => .command f (encode i)

/-- The move empties `BUF` for what comes: reset, or an `RSTB`. -/
def emptiesBuf : HostMove → Bool
  | .reset => true
  | .command _ w => decode w == some .rstb

/-- The operations that write `BUF` (R19) among those that the moves issue, for whichever frame. -/
def bufOps (moves : List HostMove) : List Instr :=
  moves.filterMap fun m => match m with
    | .reset => none
    | .command _ w => (decode w).filter mayWriteBuf

end Sys2Proof.Spec

open Sys2Proof Sys2Proof.Machine Sys2Proof.Spec

/-! ### Encoding -/

/-- spec/30_encoding.md R46: some words written out from the opcode map, and words it makes illegal. -/
def Obligations.SampleWordsDecodeByTheOpcodeMap : Prop :=
  decode 0b000000000000 = some .clr ∧
  decode 0b000101010001 = some (.abs 0x51) ∧
  decode 0b001000000000 = some .fin ∧
  decode 0b001100000000 = some .csum ∧
  decode 0b010000000000 = some .rstb ∧
  decode 0b010111111111 = some (.push 0xFF) ∧
  decode 0b011000000000 = some .pop ∧
  decode 0b011100000000 = some .enc ∧
  decode 0b100000000000 = some .dec ∧
  decode 0b100100000001 = some (.cfg 0x01) ∧
  decode 0b100100000010 = none ∧ decode 0b000000000001 = none ∧ decode 0b101000000000 = none

/-- Decode and encode agree on every well-formed operation, every immediate included, and so a list of well-formed
operations and a sequence of legal words determine each other. -/
def Obligations.DecodeAndEncodeAgree : Prop :=
  (∀ i : Instr, i.wellFormed = true → decode (encode i) = some i) ∧
  (∀ (ws : List CommandWord) (is : List Instr),
    ws.mapM decode = some is ↔ (∀ i ∈ is, i.wellFormed = true) ∧ is.map encode = ws)

/-- Each legal word has one meaning: what it decodes to is well formed and encodes back to the word. -/
def Obligations.DecodedWordEncodesBack : Prop :=
  ∀ (w : CommandWord) (i : Instr), decode w = some i → i.wellFormed = true ∧ encode i = w

/-- R50, first sentence: exactly these words decode to no operation. -/
def Obligations.IllegalWordsAreExactlyThese : Prop :=
  ∀ w : CommandWord, decode w = none ↔ IllegalWord w.toNat

/-- spec/30_encoding.md R49: 521 of the 4096 words are legal. -/
def Obligations.LegalWordsNumber521 : Prop :=
  ((List.range 4096).filter fun w => (decode (BitVec.ofNat 12 w)).isSome).length = 521

/-- The decoder and spec/opcode_table.json, whose rows it does not use, say the same: a word decodes to an operation
exactly when it belongs to the row of that operation's mnemonic, and to no other row. -/
def Obligations.DecoderAgreesWithTheOpcodeTable : Prop :=
  (∀ w : CommandWord, (decode w = none ↔ ∀ r ∈ opcodeTable, r.holds w = false)) ∧
  (∀ (w : CommandWord) (i : Instr), decode w = some i →
    ∀ r ∈ opcodeTable, (r.holds w = true ↔ r.mnemonic = i.mnemonic))

/-- spec/30_encoding.md R52: the line printed for a well-formed operation assembles to its command word. -/
def Obligations.PrintedLineAssemblesToItsWord : Prop :=
  ∀ i : Instr, i.wellFormed = true → assembleWord (printLine i) = some (encode i)

/-! ### The step -/

/-- R20, R113: on every word and in every state the CFU goes on to a next state, and so does every step. -/
def Obligations.EveryStepAnswersANextState : Prop :=
  (∀ (w : CommandWord) (s : Machine.State), ∃ t, executeWord w s = .next t) ∧
  (∀ s : Machine.State, ∃ t, Machine.step s = .next t)

/-- A step runs the decoded operation: where the host's next event is a word that decodes to `i`, the step is `exec i`
on the state in which that event is taken. -/
def Obligations.StepRunsTheDecodedInstruction : Prop :=
  ∀ (s : Machine.State) (w : CommandWord) (rest : List HostEvent) (i : Instr),
    s.host = .command w :: rest → decode w = some i → Machine.step s = exec i { s with host := rest }

/-- R50: executing an illegal word sets `ERR` to 1 and changes nothing else, and the next event is then taken as
usual. -/
def Obligations.IllegalWordSetsErrAndNothingElse : Prop :=
  ∀ (s : Machine.State) (w : CommandWord), IllegalWord w.toNat →
    executeWord w s = .next { s with err := 1 } ∧
    ∀ rest, s.host = .command w :: rest → Machine.step s = .next { s with host := rest, err := 1 }

/-- R120: a reset leaves the reset values whatever the state was; for four registers R24 decides zero where a weaker reading is
allowed (notes/assumptions/6.md). That `BUFSZ` and what the host does next stay is the
model's reading (notes/assumptions/4.md). -/
def Obligations.ResetStepLeavesTheResetState : Prop :=
  ∀ (s : Machine.State) (rest : List HostEvent), s.host = .reset :: rest →
    ∃ t, Machine.step s = .next t ∧ t.acc = 0x0000 ∧ t.ckh = 0x00 ∧ t.ckl = 0x00 ∧ t.buf = [] ∧ t.dout = 0x00 ∧
      t.err = 0 ∧ t.selfchk = false ∧ t.bufsz = s.bufsz ∧ t.host = rest

/-- spec/60_exceptions.md R112: while the host does nothing the CFU holds its state. That such a moment is a step of its
own is the model's choice (notes/assumptions/1.md). -/
def Obligations.IdleStepHoldsTheState : Prop :=
  ∀ s : Machine.State, s.host = [] → Machine.step s = .next s

/-- spec/20_memory.md R39: operations take effect one at a time, completely, in the order the host issues them: stepping
through the words of a list of operations is executing the operations one after the other. -/
def Obligations.IssuedWordsExecuteInOrder : Prop :=
  ∀ (is : List Instr) (s : Machine.State), (∀ i ∈ is, i.wellFormed = true) →
    steps is.length (issueAll is s) = execAll is s

/-- The host's placing of a word (`withFetchWord`) makes the very next step run the operation it decodes to, and
leaves everything else alone. -/
def Obligations.PlacedWordRunsNext : Prop :=
  ∀ (s : Machine.State) (nbits w : Nat) (i : Instr), decodeTableWord nbits w = some i →
    Machine.step (s.withFetchWord nbits w) = exec i s ∧
    (s.withFetchWord nbits w).host.tail = s.host ∧ { s.withFetchWord nbits w with host := s.host } = s

/-! ### Reset and invariants -/

/-- R24: the reset values, for every capacity; for four registers it decides zero where a weaker reading is allowed
(notes/assumptions/6.md). -/
def Obligations.ResetValues : Prop :=
  ∀ size : BufSize,
    State.resetWith size = { acc := 0x0000, ckh := 0x00, ckl := 0x00, buf := [], dout := 0x00, err := 0,
                             selfchk := false, bufsz := size, host := [] } ∧
    State.reset = State.resetWith Config.bufsz

/-- The reset state satisfies the invariants of R25; that `CKH` and `CKL` are zero in it is R24's decision
(notes/assumptions/6.md). -/
def Obligations.ResetSatisfiesTheInvariants : Prop := State.reset.Inv

/-- R25: every state reachable from reset satisfies the invariants, written out, and `step` preserves them from every
state that satisfies them, reachable or not. -/
def Obligations.InvariantsHoldWhenReachableAndAreKept : Prop :=
  (∀ (size : BufSize) (s : Machine.State), Reachable size s →
    (∀ cap h, s.bufsz = .bounded cap h → s.buf.length ≤ cap) ∧ s.err.toNat ≤ 8 ∧
    s.ckh ∉ [0x28, 0x0D, 0x0A] ∧ s.ckl ∉ [0x28, 0x0D, 0x0A] ∧ s.bufsz = size) ∧
  (∀ s t : Machine.State, s.Inv → Machine.step s = .next t → t.Inv)

/-! ### The functions of the checksum engine -/

/-- R55: the sixteen literals, and the closed form that reproduces them. -/
def Obligations.TableHasTheSixteenEntries : Prop :=
  table.toList = [0x0000, 0x1021, 0x2042, 0x3063, 0x4084, 0x50A5, 0x60C6, 0x70E7,
                  0x8108, 0x9129, 0xA14A, 0xB16B, 0xC18C, 0xD1AD, 0xE1CE, 0xF1EF] ∧
  ∀ i : Nibble, (tableEntry i).toNat = tableValue i.toNat

/-- R56 and R57 on unsigned integers: the nibble step, and a byte as its high nibble and then its low nibble. -/
def Obligations.ByteStepIsTwoNibbleSteps : Prop :=
  (∀ (acc : Word16) (n : Nibble), (crcNibble acc n).toNat = nibbleStep acc.toNat n.toNat) ∧
  (∀ (acc : Word16) (b : Byte), (crcByte acc b).toNat = byteStep acc.toNat b.toNat)

/-- R58 and R59: the raw checksum starts at 0 and absorbs the bytes in sequence order; the checksum is its two bytes,
high first, each adjusted. -/
def Obligations.ChecksumAbsorbsInSequenceOrder : Prop :=
  crcRaw [] = 0x0000 ∧
  (∀ (p : List Byte) (b : Byte), crcRaw (p ++ [b]) = crcByte (crcRaw p) b) ∧
  (∀ p : List Byte, IsChecksum p (checksum p).1 (checksum p).2)

/-- R61 point 4 and R68: the nibble algorithm with the 16-entry table is the bit-serial division by the generator
polynomial 0x1021, initial value 0, most significant bit first. -/
def Obligations.NibbleTableIsBitSerialDivision : Prop :=
  ∀ p : List Byte, crcRaw p = bitSerial p

/-- R60 on unsigned integers, with the three facts it draws. -/
def Obligations.AdjustmentOfReservedBytes : Prop :=
  (∀ x : Byte, (adj x).toNat = adjusted x.toNat) ∧
  (∀ x : Byte, adj x ∉ [0x28, 0x0D, 0x0A]) ∧
  (∀ x : Byte, adj (adj x) = adj x) ∧
  adj 0x28 = adj 0x29 ∧ adj 0x0D = adj 0x0E ∧ adj 0x0A = adj 0x0B

/-- R61 points 1 to 3: the empty sequence, no reserved byte in any checksum, and two sequences with different raw
checksums and the same checksum. -/
def Obligations.ChecksumNeverHoldsAReservedByte : Prop :=
  checksum [] = (0x00, 0x00) ∧
  (∀ p : List Byte, (checksum p).1 ∉ [0x28, 0x0D, 0x0A] ∧ (checksum p).2 ∉ [0x28, 0x0D, 0x0A]) ∧
  crcRaw [0x47, 0x4D] = 0x0D32 ∧ crcRaw [0x22, 0x71] = 0x0E32 ∧
  checksum [0x47, 0x4D] = (0x0E, 0x32) ∧ checksum [0x22, 0x71] = (0x0E, 0x32)

/-- R67: the structure of the step. -/
def Obligations.CrcStepStructure : Prop :=
  (∀ n : Nibble, Function.Bijective fun acc => crcNibble acc n) ∧
  (∀ b : Byte, Function.Bijective fun acc => crcByte acc b) ∧
  (∀ acc : Word16, Function.Injective fun n => crcNibble acc n) ∧
  (∀ acc : Word16, Function.Injective fun b => crcByte acc b) ∧
  (∀ p q : List Byte, DifferInOneByte p q → crcRaw p ≠ crcRaw q) ∧
  (∀ (a a' : Word16) (b b' : Byte), crcByte a b ^^^ crcByte a' b' = crcByte (a ^^^ a') (b ^^^ b'))

/-! ### Results of the checksum engine's operations -/

/-- R62: `CLR` clears `ACC`, reports success and leaves everything else as it was. -/
def Obligations.ClrClearsTheAccumulator : Prop :=
  ∀ s : Machine.State, exec .clr s = .next { s with acc := 0x0000, err := 0 }

/-- R63: `ABS` absorbs its byte into whatever `ACC` holds, reports success and leaves everything else as it was. -/
def Obligations.AbsAbsorbsOneByte : Prop :=
  ∀ (s : Machine.State) (b : Byte), ∃ a : Word16,
    a.toNat = byteStep s.acc.toNat b.toNat ∧ exec (.abs b) s = .next { s with acc := a, err := 0 }

/-- R64: `FIN` writes the two adjusted bytes of `ACC`, reports success and leaves everything else, `ACC` included, as it
was. -/
def Obligations.FinLatchesTheAdjustedBytes : Prop :=
  ∀ s : Machine.State, ∃ high low : Byte,
    high.toNat = adjusted (s.acc.toNat / 256) ∧ low.toNat = adjusted (s.acc.toNat % 256) ∧
    exec .fin s = .next { s with ckh := high, ckl := low, err := 0 }

/-- R65: `CSUM` starts from 0 and leaves the checksum of the whole buffer, whatever its bytes; the buffer stays; it is
exactly the state that `CLR`, one `ABS` for each byte and `FIN` leave. -/
def Obligations.CsumIsTheStreamOfTheBuffer : Prop :=
  (∀ s : Machine.State, ∃ high low : Byte, IsChecksum s.buf high low ∧
    exec .csum s = .next { s with acc := crcRaw s.buf, ckh := high, ckl := low, err := 0 }) ∧
  (∀ s : Machine.State, exec .csum s = execAll (.clr :: s.buf.map .abs ++ [.fin]) s)

/-! ### Results of the buffer and configuration operations -/

/-- R70: `RSTB` empties the buffer, reports success and leaves everything else as it was. -/
def Obligations.RstbEmptiesTheBuffer : Prop :=
  ∀ s : Machine.State, exec .rstb s = .next { s with buf := [], err := 0 }

/-- R71: `PUSH` appends its byte, and reports overflow and changes nothing else exactly when `LEN = BUFSZ`. That it appends
in a state longer than `BUFSZ`, which no run reaches, is the model's choice (notes/assumptions/5.md). -/
def Obligations.PushAppendsOrOverflows : Prop :=
  (∀ (s : Machine.State) (b : Byte), (∀ cap h, s.bufsz = .bounded cap h → s.buf.length ≠ cap) →
    exec (.push b) s = .next { s with buf := s.buf ++ [b], err := 0 }) ∧
  (∀ (s : Machine.State) (b : Byte) (cap : Nat) (h : 3 ≤ cap), s.bufsz = .bounded cap h → s.buf.length = cap →
    exec (.push b) s = .next { s with err := 2 })

/-- R72: `POP` moves the head byte to `DOUT`, and reports an empty buffer and changes nothing else exactly when
`LEN = 0`. -/
def Obligations.PopDeliversTheHead : Prop :=
  (∀ (s : Machine.State) (b : Byte) (rest : List Byte), s.buf = b :: rest →
    exec .pop s = .next { s with dout := b, buf := rest, err := 0 }) ∧
  (∀ s : Machine.State, s.buf = [] → exec .pop s = .next { s with err := 3 })

/-- R73: `CFG` writes `imm[0]` to `SELFCHK` when `imm[7:1]` is 0, and is an illegal operation that leaves `SELFCHK`
when it is not. That `exec` of such an ill-formed term, to which no word decodes, does what the illegal word does is the
model's reading (notes/assumptions/7.md). -/
def Obligations.CfgWritesTheSelfCheckBit : Prop :=
  (∀ s : Machine.State, exec (.cfg 0x00) s = .next { s with selfchk := false, err := 0 }) ∧
  (∀ s : Machine.State, exec (.cfg 0x01) s = .next { s with selfchk := true, err := 0 }) ∧
  (∀ (s : Machine.State) (imm : Byte), imm.toNat / 2 ≠ 0 → exec (.cfg imm) s = .next { s with err := 1 })

/-- R72, R32: popping delivers the buffer in index order. After `k + 1` pops of a buffer of more than `k` bytes `DOUT`
holds the byte that stood at index `k`, the buffer is what stood behind it, and nothing else but `ERR` changed. -/
def Obligations.PopsDeliverTheBytesInOrder : Prop :=
  ∀ (s : Machine.State) (k : Nat), k < s.buf.length → ∃ b : Byte, byteAt s.buf k = some b ∧
    execAll (List.replicate (k + 1) .pop) s = .next { s with dout := b, buf := s.buf.drop (k + 1), err := 0 }

/-! ### The frame encoder -/

/-- R83: a 7-bit payload with room for three more bytes becomes its frame, and `ACC`, `CKH`, `CKL` hold what `CSUM`
would have left; a byte of 0x80 or above anywhere is refused whatever the room is; then a want of room is. On either
failure nothing but `ERR` changes. -/
def Obligations.EncEncodesInPlace : Prop :=
  (∀ s : Machine.State, SevenBit s.buf → Fits s.bufsz (s.buf.length + 3) →
    ∃ high low : Byte, IsChecksum s.buf high low ∧
      exec .enc s = .next { s with acc := crcRaw s.buf, ckh := high, ckl := low,
                                   buf := s.buf ++ [high, low, 0x0D], err := 0 }) ∧
  (∀ (s : Machine.State) (b : Byte), b ∈ s.buf → 0x80 ≤ b.toNat → exec .enc s = .next { s with err := 4 }) ∧
  (∀ (s : Machine.State) (cap : Nat) (h : 3 ≤ cap), SevenBit s.buf → s.bufsz = .bounded cap h →
    cap < s.buf.length + 3 → exec .enc s = .next { s with err := 2 })

/-- R80 and R85: `encode` succeeds exactly on 7-bit payloads; a frame's last byte is 0x0D and the two before it are not
reserved; a payload without 0x0D gives a frame with exactly one; different payloads give different frames; and what
`ENC` leaves in `BUF` and `ERR` depends on nothing but the buffer and its capacity. -/
def Obligations.EncodedFrameFacts : Prop :=
  (∀ p : List Byte, (∃ f, encodePayload p = .ok f) ↔ SevenBit p) ∧
  (∀ p f : List Byte, encodePayload p = .ok f → ∃ high low : Byte, IsChecksum p high low ∧
    f = p ++ [high, low, 0x0D] ∧ high ∉ [0x28, 0x0D, 0x0A] ∧ low ∉ [0x28, 0x0D, 0x0A]) ∧
  (∀ p f : List Byte, encodePayload p = .ok f → 0x0D ∉ p → f.count 0x0D = 1) ∧
  (∀ p q f : List Byte, encodePayload p = .ok f → encodePayload q = .ok f → p = q) ∧
  (∀ s s' t t' : Machine.State, s.buf = s'.buf → s.bufsz = s'.bufsz → exec .enc s = .next t → exec .enc s' = .next t' →
    t.buf = t'.buf ∧ t.err = t'.err)

/-- spec/20_memory.md R37: `CSUM` twice is `CSUM` once; a second `ENC` takes the first one's frame as a payload, and so
fails with `ERR_NONASCII` when a checksum byte is 0x80 or above, or else appends a second checksum and terminator. -/
def Obligations.CsumIsIdempotentAndEncIsNot : Prop :=
  (∀ s t : Machine.State, exec .csum s = .next t → exec .csum t = .next t) ∧
  (∀ s t : Machine.State, exec .enc s = .next t → t.err = 0 → (0x80 ≤ t.ckh.toNat ∨ 0x80 ≤ t.ckl.toNat) →
    exec .enc t = .next { t with err := 4 }) ∧
  (∀ s t : Machine.State, exec .enc s = .next t → t.err = 0 → t.ckh.toNat ≤ 0x7F → t.ckl.toNat ≤ 0x7F →
    Fits t.bufsz (t.buf.length + 3) →
    ∃ u, exec .enc t = .next u ∧ u.err = 0 ∧ u.buf = t.buf ++ [u.ckh, u.ckl, 0x0D] ∧ IsChecksum t.buf u.ckh u.ckl)

/-! ### The frame decoder -/

/-- R94, check by check. Fewer than three bytes, and three or more that do not end in 0x0D, are refused with nothing but
`ERR` changed. A terminated buffer whose two checksum bytes are not those of its candidate is refused whatever its
bytes; one whose checksum matches and that holds a byte of 0x80 or above is refused; in both the buffer stays and
`ACC`, `CKH`, `CKL` keep the recomputed values. A frame is stripped of its three tail bytes, for either value of
`SELFCHK`. -/
def Obligations.DecDecodesInPlace : Prop :=
  (∀ s : Machine.State, s.buf.length < 3 → exec .dec s = .next { s with err := 5 }) ∧
  (∀ (s : Machine.State) (front : List Byte) (last : Byte), s.buf = front ++ [last] → 2 ≤ front.length → last ≠ 0x0D →
    exec .dec s = .next { s with err := 6 }) ∧
  (∀ (s : Machine.State) (cand : List Byte) (high low rh rl : Byte), s.buf = cand ++ [rh, rl, 0x0D] →
    IsChecksum cand high low → high ≠ rh ∨ low ≠ rl →
    exec .dec s = .next { s with acc := crcRaw cand, ckh := high, ckl := low, err := 7 }) ∧
  (∀ (s : Machine.State) (cand : List Byte) (high low b : Byte), s.buf = cand ++ [high, low, 0x0D] →
    IsChecksum cand high low → b ∈ cand → 0x80 ≤ b.toNat →
    exec .dec s = .next { s with acc := crcRaw cand, ckh := high, ckl := low, err := 4 }) ∧
  (∀ (s : Machine.State) (cand : List Byte) (high low : Byte), s.buf = cand ++ [high, low, 0x0D] →
    IsChecksum cand high low → SevenBit cand →
    exec .dec s = .next { s with acc := crcRaw cand, ckh := high, ckl := low, buf := cand, err := 0 })

/-- R96: `ERR_INTERNAL` cannot occur, and `DEC` behaves identically for both values of `SELFCHK`. -/
def Obligations.SelfCheckNeverFires : Prop :=
  (∀ s t : Machine.State, exec .dec s = .next t → t.err ≠ 8) ∧
  (∀ (s t : Machine.State) (b : Bool), exec .dec s = .next t →
    exec .dec { s with selfchk := b } = .next { t with selfchk := b })

/-- R90, R100, R102: `DEC` is the pure function `decode` on its buffer: on success the buffer is what `decode` returns, on
failure it is unchanged and `ERR` is the code of the failure `decode` names. -/
def Obligations.DecComputesTheDecodeFunction : Prop :=
  ∀ s : Machine.State, ∃ t, exec .dec s = .next t ∧
    match decodeFrame s.buf s.selfchk with
    | .ok p => t.buf = p ∧ t.err = 0
    | .error e => t.buf = s.buf ∧ t.err = errCode (decodeFailureKind e)

/-- R98: from any state, `RSTB; PUSHS p; ENC; DEC` ends with `BUF` = `p` and `ERR` = 0, for either value of `SELFCHK`; and
the frames that `decode` accepts are exactly the frames that `encode` produces. -/
def Obligations.EncodeThenDecodeGivesThePayloadBack : Prop :=
  (∀ (s : Machine.State) (p : List Byte), SevenBit p → Fits s.bufsz (p.length + 3) →
    ∃ t, execAll (.rstb :: p.map .push ++ [.enc, .dec]) s = .next t ∧ t.buf = p ∧ t.err = 0 ∧
      t.acc = crcRaw p ∧ IsChecksum p t.ckh t.ckl ∧ t.dout = s.dout ∧ t.selfchk = s.selfchk) ∧
  (∀ (raw p : List Byte) (selfchk : Bool), decodeFrame raw selfchk = .ok p ↔ encodePayload p = .ok raw)

/-- R99: what one changed byte of a frame does to `decode`, and two frames that differ in two bytes and are both
valid. -/
def Obligations.TamperDetection : Prop :=
  (∀ selfchk : Bool, decodeFrame [0x47, 0x4D, 0x0E, 0x32, 0x0D] selfchk = .ok [0x47, 0x4D] ∧
    decodeFrame [0x22, 0x71, 0x0E, 0x32, 0x0D] selfchk = .ok [0x22, 0x71]) ∧
  ∀ (p : List Byte) (high low : Byte) (selfchk : Bool), IsChecksum p high low →
    (∀ x : Byte, x ≠ high → decodeFrame (p ++ [x, low, 0x0D]) selfchk = .error .checksumMismatch) ∧
    (∀ x : Byte, x ≠ low → decodeFrame (p ++ [high, x, 0x0D]) selfchk = .error .checksumMismatch) ∧
    (∀ q : List Byte, DifferInOneByte p q → crcRaw q ≠ crcRaw p ∧
      (decodeFrame (q ++ [high, low, 0x0D]) selfchk = .error .checksumMismatch ∨ IsChecksum q high low)) ∧
    (∀ x y : Byte, x ∈ [0x28, 0x0D, 0x0A] ∨ y ∈ [0x28, 0x0D, 0x0A] →
      decodeFrame (p ++ [x, y, 0x0D]) selfchk = .error .checksumMismatch) ∧
    (∀ x : Byte, x ≠ 0x0D → decodeFrame (p ++ [high, low, x]) selfchk = .error .malformedTerminator)

/-- R97: a buffer fed by a stream receiver, which stops at the first 0x0D, never fails check 2, and its candidate holds
no 0x0D. -/
def Obligations.StreamFedBufferIsTerminated : Prop :=
  ∀ (s : Machine.State) (front : List Byte), 0x0D ∉ front → Fits s.bufsz (front.length + 1) →
    ∃ t, execAll (expand s.len (.decode (front ++ [0x0D]))) s = .next t ∧ t.err ≠ 6 ∧ 0x0D ∉ candidate (front ++ [0x0D])

/-! ### The functions of AXP as sequences of operations -/

/-- R26: from any state, the three command sequences leave what the three functions give. -/
def Obligations.CommandSequencesComputeTheFunctions : Prop :=
  (∀ (s : Machine.State) (p : List Byte), Fits s.bufsz p.length →
    (∃ t, execAll (expand s.len (.checksum p)) s = .next t ∧ (t.ckh, t.ckl) = checksum p) ∧
    (∃ t, execAll (.rstb :: p.map .push ++ [.csum]) s = .next t ∧ (t.ckh, t.ckl) = checksum p)) ∧
  (∀ (s : Machine.State) (p : List Byte), Fits s.bufsz (p.length + 3) →
    ∃ t, execAll (expand s.len (.encode p)) s = .next t ∧
      match encodePayload p with
      | .ok f => t.err = 0 ∧ t.buf = f
      | .error e => t.err = errCode (encodeFailureKind e) ∧ t.buf = p) ∧
  (∀ (s : Machine.State) (p : List Byte), Fits s.bufsz p.length →
    ∃ t, execAll (expand s.len (.decode p)) s = .next t ∧
      match decodeFrame p s.selfchk with
      | .ok q => t.err = 0 ∧ t.buf = q
      | .error e => t.err = errCode (decodeFailureKind e) ∧ t.buf = p)

/-! ### Frames and rules of the whole machine -/

/-- R19, the write sets: what each operation leaves unchanged, and what it leaves unchanged when it fails. `BUFSZ` and
what the host has yet to do are no operation's to write. -/
def Obligations.WriteSetsOfTheOperations : Prop :=
  ∀ (i : Instr) (s t : Machine.State), exec i s = .next t →
    (mayWriteAcc i = false → t.acc = s.acc) ∧
    (mayWriteChecksum i = false → t.ckh = s.ckh ∧ t.ckl = s.ckl) ∧
    (mayWriteBuf i = false ∨ t.err ≠ 0 → t.buf = s.buf) ∧
    (i ≠ .pop ∨ t.err ≠ 0 → t.dout = s.dout) ∧
    (isCfg i = false ∨ t.err ≠ 0 → t.selfchk = s.selfchk) ∧
    (i = .enc → t.err ≠ 0 → t.acc = s.acc ∧ t.ckh = s.ckh ∧ t.ckl = s.ckl) ∧
    (i = .dec → t.err = 5 ∨ t.err = 6 → t.acc = s.acc ∧ t.ckh = s.ckh ∧ t.ckl = s.ckl) ∧
    t.bufsz = s.bufsz ∧ t.host = s.host

/-- spec/20_memory.md R31, byte by byte: every byte of `BUF` outside those an operation writes or discards reads after
it as it read before, and bytes at `LEN` and above do not exist. -/
def Obligations.BytesOfTheBufferThatStay : Prop :=
  ∀ (i : Instr) (s t : Machine.State), exec i s = .next t →
    (mayWriteBuf i = false ∨ t.err ≠ 0 → ∀ a, byteAt t.buf a = byteAt s.buf a) ∧
    (∀ b, i = .push b → t.err = 0 → t.len = s.len + 1 ∧ byteAt t.buf s.len = some b ∧
      ∀ a, a ≠ s.len → byteAt t.buf a = byteAt s.buf a) ∧
    (i = .pop → t.err = 0 → s.len = t.len + 1 ∧ ∀ a, byteAt t.buf a = byteAt s.buf (a + 1)) ∧
    (i = .rstb → ∀ a, byteAt t.buf a = none) ∧
    (i = .enc → t.err = 0 → t.len = s.len + 3 ∧ byteAt t.buf s.len = some t.ckh ∧
      byteAt t.buf (s.len + 1) = some t.ckl ∧ byteAt t.buf (s.len + 2) = some 0x0D ∧
      ∀ a, a < s.len ∨ s.len + 3 ≤ a → byteAt t.buf a = byteAt s.buf a) ∧
    (i = .dec → t.err = 0 → s.len = t.len + 3 ∧ (∀ a, a < t.len → byteAt t.buf a = byteAt s.buf a) ∧
      ∀ a, t.len ≤ a → byteAt t.buf a = none)

/-- spec/60_exceptions.md R106: the state after every failure, complete. -/
def Obligations.StateAfterAFailure : Prop :=
  ∀ (w : CommandWord) (s t : Machine.State), executeWord w s = .next t → t.err ≠ 0 →
    t.buf = s.buf ∧ t.dout = s.dout ∧ t.selfchk = s.selfchk ∧ t.bufsz = s.bufsz ∧ t.host = s.host ∧
    (decode w ≠ some .dec ∨ t.err = 5 ∨ t.err = 6 → t.acc = s.acc ∧ t.ckh = s.ckh ∧ t.ckl = s.ckl) ∧
    (decode w = some .dec → t.err = 4 ∨ t.err = 7 ∨ t.err = 8 →
      t.acc = crcRaw (s.buf.take (s.buf.length - 3)) ∧ IsChecksum (s.buf.take (s.buf.length - 3)) t.ckh t.ckl)

/-- R100: which code each operation can report; `CLR`, `ABS`, `FIN`, `CSUM`, `RSTB` and legal `CFG` words cannot fail. That
`exec` of an ill-formed `CFG` term, to which no word decodes, reports 1 is the model's reading (notes/assumptions/7.md). -/
def Obligations.CodesEachOperationReports : Prop :=
  (∀ (i : Instr) (s t : Machine.State), exec i s = .next t → t.err ∈ mayReport i) ∧
  (∀ (w : CommandWord) (s t : Machine.State), executeWord w s = .next t → (t.err = 1 ↔ decode w = none))

/-- R14: no operation reads `ERR` and every operation writes it, so a failure has no influence on what follows. -/
def Obligations.NoOperationReadsErr : Prop :=
  ∀ (w : CommandWord) (s : Machine.State) (e : BitVec 4), executeWord w { s with err := e } = executeWord w s

/-- R11, R13: nothing but the host reads `CKH`, `CKL` and `DOUT`: their values have no influence on any other field. -/
def Obligations.ResultRegistersAreNotRead : Prop :=
  ∀ (i : Instr) (s t : Machine.State) (high low out : Byte), exec i s = .next t →
    ∃ u, exec i { s with ckh := high, ckl := low, dout := out } = .next u ∧
      u.acc = t.acc ∧ u.buf = t.buf ∧ u.err = t.err ∧ u.selfchk = t.selfchk ∧
      (mayWriteChecksum i = true → t.err = 0 → u.ckh = t.ckh ∧ u.ckl = t.ckl) ∧
      (i = .pop → t.err = 0 → u.dout = t.dout)

/-- R10: no operation but `ABS` and `FIN` reads `ACC` as an earlier operation left it: its value has no influence on any
other field, and none on the value a successful `CLR`, `CSUM`, `ENC` or `DEC` leaves in `ACC`. -/
def Obligations.OnlyAbsAndFinReadTheAccumulator : Prop :=
  ∀ (i : Instr) (s t : Machine.State) (a : Word16), (∀ b, i ≠ .abs b) → i ≠ .fin → exec i s = .next t →
    ∃ u, exec i { s with acc := a } = .next u ∧ { u with acc := t.acc } = t ∧
      (mayWriteAcc i = true → t.err = 0 → u.acc = t.acc)

/-- R15, R75: `SELFCHK` changes by a legal `CFG` word or by reset, which clears it (R24, R120), and by nothing else. -/
def Obligations.SelfCheckBitChangesOnlyByCfgOrReset : Prop :=
  ∀ s t : Machine.State, Machine.step s = .next t → t.selfchk ≠ s.selfchk →
    (∃ rest, s.host = .command 0x900 :: rest ∧ t.selfchk = false) ∨
    (∃ rest, s.host = .command 0x901 :: rest ∧ t.selfchk = true) ∨
    (∃ rest, s.host = .reset :: rest ∧ t.selfchk = false)

/-- R13: `DOUT` changes by a `POP` of a non-empty buffer, which puts the head byte there, or by reset, and by nothing
else. That `DOUT` is 0 after a reset is R24's decision (also R120), where a weaker reading is allowed
(notes/assumptions/6.md). -/
def Obligations.DataOutChangesOnlyByPopOrReset : Prop :=
  ∀ s t : Machine.State, Machine.step s = .next t → t.dout ≠ s.dout →
    (∃ rest, s.host = .command 0x600 :: rest ∧ byteAt s.buf 0 = some t.dout) ∨
    (∃ rest, s.host = .reset :: rest ∧ t.dout = 0x00)

/-- R21: the status port shows `ACC`, `CKH`, `CKL`, `DOUT`, `ERR`, `SELFCHK` and `LEN`, and of `BUF` nothing but its length:
another content of the same length shows the same. And `CLR`, `ABS`, `FIN`, `RSTB`, `PUSH` and `CFG` bring none of the content
there: two CFUs of the same capacity that show the same status show the same status after any of them. -/
def Obligations.StatusPortHidesTheBufferContent : Prop :=
  (∀ s : Machine.State, readStatus s = { acc := s.acc, ckh := s.ckh, ckl := s.ckl, dout := s.dout, err := s.err,
                                         selfchk := s.selfchk, len := s.buf.length }) ∧
  (∀ (s : Machine.State) (b : List Byte), b.length = s.buf.length → readStatus { s with buf := b } = readStatus s) ∧
  (∀ (i : Instr) (s s' t t' : Machine.State), blindToContent i = true → s.bufsz = s'.bufsz →
    readStatus s = readStatus s' → exec i s = .next t → exec i s' = .next t' → readStatus t = readStatus t')

/-- R72, both cases in one equation: in every state `POP` answers a next state, with the head byte in `DOUT` where there is
one and `DOUT` as it was where there is none. -/
def Obligations.PopCompletesInEveryState : Prop :=
  ∀ s : Machine.State, exec .pop s = .next { s with dout := s.buf.headD s.dout, buf := s.buf.tail,
                                                    err := if s.buf = [] then 3 else 0 }

/-! ### One exchange at a time -/

/-- spec/70_reset_and_hazards.md R126: while `BUF` serves a frame the host has no move that pushes a byte of another one, nor
one that pops, encodes or decodes it for another, nor one that begins another before `BUF` is empty; and none that pushes
anything after the frame's `ENC` or `DEC`. The CFU "does not detect a violation": whatever frame a word is issued for, its step
is that of the operation alone, and a `PUSH` that has room appends its byte and reports success. What counts as a move is the
model's choice (notes/assumptions/9.md). -/
def Obligations.HostHasNoMoveThatMixesTwoFrames : Prop :=
  (∀ (l : Ledger) (s : Machine.State) (f g : Nat), l.frame = some f → g ≠ f →
    (∀ b : Byte, conductMove l s (.command g (encode (.push b))) = none) ∧
    (∀ i ∈ [Instr.pop, .enc, .dec], conductMove l s (.command g (encode i)) = none) ∧
    (s.buf ≠ [] → conductMove l s (.command g (encode .rstb)) = none)) ∧
  (∀ (l : Ledger) (s : Machine.State) (g : Nat) (b : Byte), l.complete = true →
    conductMove l s (.command g (encode (.push b))) = none) ∧
  (∀ (s : Machine.State) (g : Nat) (i : Instr), i.wellFormed = true →
    Machine.step { s with host := [(HostMove.command g (encode i)).event] } = exec i { s with host := [] }) ∧
  (∀ (s : Machine.State) (g : Nat) (b : Byte), Fits s.bufsz (s.buf.length + 1) →
    Machine.step { s with host := [(HostMove.command g (encode (.push b))).event] } =
      .next { s with buf := s.buf ++ [b], err := 0, host := [] })

/-- R126: a run from reset of the host that keeps its duty ends in a span of moves, from behind its last `RSTB` or reset on,
in which every move that writes `BUF`, and the `RSTB` before it, is issued for one and the same frame; no byte is pushed in it
after an `ENC` or `DEC`; and `BUF` is what `RSTB` and these operations alone leave from any state of the same capacity, whatever
it holds. The ledger names that frame and those operations, and the run is one of those of an unrestricted host. What counts
as a move is the model's choice (notes/assumptions/9.md). -/
def Obligations.BufHoldsOneFrameAlone : Prop :=
  ∀ (size : BufSize) (moves : List HostMove) (l : Ledger) (s : Machine.State),
    conduct moves Ledger.free (State.resetWith size) = some (l, s) →
    Reachable size s ∧
    ∃ (before span : List HostMove) (f : Nat), moves = before ++ span ∧
      (∀ m, before.getLast? = some m → emptiesBuf m = true) ∧ (∀ m ∈ span, emptiesBuf m = false) ∧
      (∀ g w, before.getLast? = some (.command g w) → g = f) ∧
      (∀ g w i, .command g w ∈ span → decode w = some i → mayWriteBuf i = true → g = f) ∧
      (∀ front back i, bufOps span = front ++ i :: back → i = .enc ∨ i = .dec → ∀ b, .push b ∉ back) ∧
      (∀ f', l.frame = some f' → f' = f) ∧ (l.frame = none → bufOps span = []) ∧ l.ops = bufOps span ∧
      ∀ s₀ : Machine.State, s₀.bufsz = size → ∃ t, execAll (.rstb :: bufOps span) s₀ = .next t ∧ t.buf = s.buf

/-- R126: "exactly one request issued, one response awaited". The host that keeps its duty has every move of an exchange:
whatever 7-bit request and whatever response fit, it can build the request's frame, drain it, push the response and have it
decoded, and then `BUF` and `ERR` are what `decode` gives of the response alone. What counts as a move is the model's choice
(notes/assumptions/9.md). -/
def Obligations.OneExchangeRunsToItsEnd : Prop :=
  ∀ (size : BufSize) (p raw : List Byte), SevenBit p → Fits size (p.length + 3) → Fits size raw.length →
    ∃ l s, conduct (movesFor 1 (expand 0 (.encode p) ++ expand (p.length + 3) .drain) ++ movesFor 2 (expand 0 (.decode raw)))
        Ledger.free (State.resetWith size) = some (l, s) ∧
      match decodeFrame raw false with
      | .ok q => s.buf = q ∧ s.err = 0
      | .error e => s.buf = raw ∧ s.err = errCode (decodeFailureKind e)
end

