-- ==== Sys2Proof/Laws/Buffer.lean ====
section
/-! SUPPORT. What reads of the buffer answer after each way of changing it, what the capacity tests decide, and that
every buffer is a memory in canonical form. -/

namespace Sys2Proof.Machine

/-! ### Reads of one byte -/

@[simp] theorem byteAt_nil (i : Nat) : byteAt [] i = none := by simp [byteAt]

/-- Appending leaves every existing byte as it was. -/
theorem byteAt_append_left {b t : Buffer} {i : Nat} (h : i < b.length) : byteAt (b ++ t) i = byteAt b i := by
  simp [byteAt, List.getElem?_append_left h]

/-- Behind the old tail stand the appended bytes. -/
theorem byteAt_append_right {b t : Buffer} {i : Nat} (h : b.length ≤ i) :
    byteAt (b ++ t) i = byteAt t (i - b.length) := by
  simp [byteAt, List.getElem?_append_right h]

/-- After the head is removed, every other byte stands one index lower (spec/20_memory.md R31). -/
@[simp] theorem byteAt_cons_succ (head : Byte) (rest : Buffer) (i : Nat) :
    byteAt (head :: rest) (i + 1) = byteAt rest i := by simp [byteAt]

/-- The bytes of the candidate are the buffer's; those behind it do not exist. -/
theorem byteAt_candidate (b : Buffer) (i : Nat) :
    byteAt (candidate b) i = if i < b.length - 3 then byteAt b i else none := by
  simp [byteAt, candidate, List.getElem?_take]

@[simp] theorem length_candidate (b : Buffer) : (candidate b).length = b.length - 3 := by
  simp [candidate]

/-- A buffer written as candidate and trailer has that candidate. -/
@[simp] theorem candidate_append (cand : Buffer) (high low term : Byte) :
    candidate (cand ++ [high, low, term]) = cand := by simp [candidate]

/-- A buffer of three bytes or more is a candidate and three more bytes. -/
theorem exists_trailer {b : Buffer} (h : 3 ≤ b.length) :
    ∃ high low term, b = candidate b ++ [high, low, term] := by
  have hd : (b.drop (b.length - 3)).length = 3 := by simp; omega
  obtain ⟨x, y, z, hxyz⟩ := List.length_eq_three.mp hd
  exact ⟨x, y, z, by rw [← hxyz, candidate, List.take_append_drop]⟩

/-! ### The capacity tests -/

@[simp] theorem isFull_unbounded (len : Nat) : isFull .unbounded len = false := by simp [isFull]

/-- `PUSH` tests `LEN = BUFSZ`. -/
@[simp] theorem isFull_bounded (n : Nat) (h : 3 ≤ n) (len : Nat) : isFull (.bounded n h) len = decide (len = n) := by
  by_cases e : len = n <;> simp_all [isFull]

@[simp] theorem exceeds_unbounded (len : Nat) : exceeds .unbounded len = false := by simp [exceeds]

/-- `ENC` tests `LEN + 3 > BUFSZ`. -/
@[simp] theorem exceeds_bounded (n : Nat) (h : 3 ≤ n) (len : Nat) :
    exceeds (.bounded n h) len = decide (n < len) := by
  by_cases e : n < len
  · simp [exceeds, e]; omega
  · simp [exceeds, e]

/-! ### The canonical form of memory -/

/-- Every address listed from `i` on is at least `i`. -/
theorem le_address_of_mem_cellsFrom {b : Buffer} {i : Nat} {c : Host.Cell} (h : c ∈ cellsFrom i b) : i ≤ c.1 := by
  induction b generalizing i with
  | nil => simp [cellsFrom] at h
  | cons x rest ih =>
    simp only [cellsFrom, List.mem_cons] at h
    obtain rfl | h := h
    · exact Nat.le_refl _
    · exact Nat.le_of_succ_le (ih h)

theorem addressesRise_cellsFrom (b : Buffer) (i : Nat) : addressesRise (cellsFrom i b) = true := by
  induction b generalizing i with
  | nil => rfl
  | cons x rest ih =>
    cases rest with
    | nil => rfl
    | cons y rest => simpa [cellsFrom, addressesRise] using ih (i + 1)

/-- Every buffer is a memory in canonical form, so every memory operation keeps it. -/
theorem memory_wf (b : Buffer) : Memory.wf b = true := addressesRise_cellsFrom b 0

/-- The reset state's memory is in canonical form, and lists nothing. -/
theorem reset_memory_wf : Memory.wf State.reset.buf = true ∧ memoryCells State.reset.buf = [] := ⟨memory_wf _, rfl⟩

/-- Equal lists of address and byte pairs are equal buffers: the view loses nothing. -/
theorem memoryCells_injective {a b : Buffer} (h : memoryCells a = memoryCells b) : a = b := by
  suffices ∀ (a b : Buffer) (i : Nat), cellsFrom i a = cellsFrom i b → a = b from this a b 0 h
  intro a
  induction a with
  | nil => intro b i h; cases b with
    | nil => rfl
    | cons y rest => simp [cellsFrom] at h
  | cons x rest ih => intro b i h; cases b with
    | nil => simp [cellsFrom] at h
    | cons y rest' =>
      simp only [cellsFrom, List.cons.injEq, Prod.mk.injEq] at h
      rw [h.1.2, ih rest' (i + 1) h.2]

end Sys2Proof.Machine
end

