-- ==== Sys2Proof/Laws/Checksum.lean ====
section
/-! SUPPORT. What the engine's pure functions do, one lemma per function (spec/40_checksum_engine.md R56 to R60). -/

namespace Sys2Proof.Machine

@[simp] theorem absorb_nil (acc : Word16) : absorb acc [] = acc := rfl

@[simp] theorem absorb_cons (acc : Word16) (b : Byte) (bytes : List Byte) :
    absorb acc (b :: bytes) = absorb (crcByte acc b) bytes := rfl

/-- Absorbing two sequences one after the other is absorbing their concatenation. -/
theorem absorb_append (acc : Word16) (xs ys : List Byte) : absorb acc (xs ++ ys) = absorb (absorb acc xs) ys :=
  List.foldl_append

@[simp] theorem crcRaw_nil : crcRaw [] = 0x0000 := rfl

/-- The table is linear over exclusive or (what R67 point 4 rests on). -/
theorem tableEntry_xor : ∀ i j : Nibble, tableEntry (i ^^^ j) = tableEntry i ^^^ tableEntry j := by decide

/-- Different table entries differ in their low nibble, which is the index. -/
theorem tableEntry_lowNibble : ∀ i : Nibble, (tableEntry i).extractLsb' 0 4 = i := by decide

/-- The table index of a step is the accumulator's top nibble exclusive-or the nibble absorbed (R56). -/
theorem crcNibble_eq (acc : Word16) (n : Nibble) :
    crcNibble acc n = (acc <<< 4) ^^^ tableEntry (acc.extractLsb' 12 4 ^^^ n) := by
  have h : ((((acc >>> 8) >>> 4).setWidth 8 ^^^ n.setWidth 8).setWidth 4 : Nibble) = acc.extractLsb' 12 4 ^^^ n := by
    ext i hi
    simp
  simp only [crcNibble, h]

/-- A step is linear over exclusive or in the accumulator and the nibble together (R67). -/
theorem crcNibble_xor (a a' : Word16) (n n' : Nibble) :
    crcNibble (a ^^^ a') (n ^^^ n') = crcNibble a n ^^^ crcNibble a' n' := by
  have h : (a ^^^ a').extractLsb' 12 4 ^^^ (n ^^^ n') =
      (a.extractLsb' 12 4 ^^^ n) ^^^ (a'.extractLsb' 12 4 ^^^ n') := by
    rw [BitVec.extractLsb'_xor]; ac_rfl
  rw [crcNibble_eq, crcNibble_eq, crcNibble_eq, h, tableEntry_xor, BitVec.shiftLeft_xor_distrib]
  ac_rfl

/-- An adjusted byte is never reserved (R60). -/
theorem adj_not_reserved : ∀ x : Byte, adj x ∉ reserved := by decide

/-- A byte that is not reserved is not adjusted (R60). -/
theorem adj_eq_self {x : Byte} (h : x ∉ reserved) : adj x = x := by
  simp only [reserved, List.mem_cons, List.not_mem_nil, or_false] at h
  exact if_neg h

theorem checksum_fst (bytes : List Byte) : (checksum bytes).1 = adj (highByte (crcRaw bytes)) := rfl

theorem checksum_snd (bytes : List Byte) : (checksum bytes).2 = adj (lowByte (crcRaw bytes)) := rfl

end Sys2Proof.Machine
end

