-- ==== Sys2Proof/Laws/State.lean ====
section
/-! SUPPORT. One lemma per field per update of State, so that no later proof unfolds an update. -/

namespace Sys2Proof.Machine.State

@[simp] theorem setAcc_acc (s : State) (v : Word16) : (s.setAcc v).acc = v := rfl
@[simp] theorem setAcc_ckh (s : State) (v : Word16) : (s.setAcc v).ckh = s.ckh := rfl
@[simp] theorem setAcc_ckl (s : State) (v : Word16) : (s.setAcc v).ckl = s.ckl := rfl
@[simp] theorem setAcc_buf (s : State) (v : Word16) : (s.setAcc v).buf = s.buf := rfl
@[simp] theorem setAcc_dout (s : State) (v : Word16) : (s.setAcc v).dout = s.dout := rfl
@[simp] theorem setAcc_err (s : State) (v : Word16) : (s.setAcc v).err = s.err := rfl
@[simp] theorem setAcc_selfchk (s : State) (v : Word16) : (s.setAcc v).selfchk = s.selfchk := rfl
@[simp] theorem setAcc_bufsz (s : State) (v : Word16) : (s.setAcc v).bufsz = s.bufsz := rfl
@[simp] theorem setAcc_host (s : State) (v : Word16) : (s.setAcc v).host = s.host := rfl
@[simp] theorem setAcc_len (s : State) (v : Word16) : (s.setAcc v).len = s.len := rfl

@[simp] theorem setChecksum_acc (s : State) (h l : Byte) : (s.setChecksum h l).acc = s.acc := rfl
@[simp] theorem setChecksum_ckh (s : State) (h l : Byte) : (s.setChecksum h l).ckh = h := rfl
@[simp] theorem setChecksum_ckl (s : State) (h l : Byte) : (s.setChecksum h l).ckl = l := rfl
@[simp] theorem setChecksum_buf (s : State) (h l : Byte) : (s.setChecksum h l).buf = s.buf := rfl
@[simp] theorem setChecksum_dout (s : State) (h l : Byte) : (s.setChecksum h l).dout = s.dout := rfl
@[simp] theorem setChecksum_err (s : State) (h l : Byte) : (s.setChecksum h l).err = s.err := rfl
@[simp] theorem setChecksum_selfchk (s : State) (h l : Byte) : (s.setChecksum h l).selfchk = s.selfchk := rfl
@[simp] theorem setChecksum_bufsz (s : State) (h l : Byte) : (s.setChecksum h l).bufsz = s.bufsz := rfl
@[simp] theorem setChecksum_host (s : State) (h l : Byte) : (s.setChecksum h l).host = s.host := rfl
@[simp] theorem setChecksum_len (s : State) (h l : Byte) : (s.setChecksum h l).len = s.len := rfl

@[simp] theorem setBuf_acc (s : State) (b : Buffer) : (s.setBuf b).acc = s.acc := rfl
@[simp] theorem setBuf_ckh (s : State) (b : Buffer) : (s.setBuf b).ckh = s.ckh := rfl
@[simp] theorem setBuf_ckl (s : State) (b : Buffer) : (s.setBuf b).ckl = s.ckl := rfl
@[simp] theorem setBuf_buf (s : State) (b : Buffer) : (s.setBuf b).buf = b := rfl
@[simp] theorem setBuf_dout (s : State) (b : Buffer) : (s.setBuf b).dout = s.dout := rfl
@[simp] theorem setBuf_err (s : State) (b : Buffer) : (s.setBuf b).err = s.err := rfl
@[simp] theorem setBuf_selfchk (s : State) (b : Buffer) : (s.setBuf b).selfchk = s.selfchk := rfl
@[simp] theorem setBuf_bufsz (s : State) (b : Buffer) : (s.setBuf b).bufsz = s.bufsz := rfl
@[simp] theorem setBuf_host (s : State) (b : Buffer) : (s.setBuf b).host = s.host := rfl
@[simp] theorem setBuf_len (s : State) (b : Buffer) : (s.setBuf b).len = b.length := rfl

@[simp] theorem setDout_acc (s : State) (v : Byte) : (s.setDout v).acc = s.acc := rfl
@[simp] theorem setDout_ckh (s : State) (v : Byte) : (s.setDout v).ckh = s.ckh := rfl
@[simp] theorem setDout_ckl (s : State) (v : Byte) : (s.setDout v).ckl = s.ckl := rfl
@[simp] theorem setDout_buf (s : State) (v : Byte) : (s.setDout v).buf = s.buf := rfl
@[simp] theorem setDout_dout (s : State) (v : Byte) : (s.setDout v).dout = v := rfl
@[simp] theorem setDout_err (s : State) (v : Byte) : (s.setDout v).err = s.err := rfl
@[simp] theorem setDout_selfchk (s : State) (v : Byte) : (s.setDout v).selfchk = s.selfchk := rfl
@[simp] theorem setDout_bufsz (s : State) (v : Byte) : (s.setDout v).bufsz = s.bufsz := rfl
@[simp] theorem setDout_host (s : State) (v : Byte) : (s.setDout v).host = s.host := rfl
@[simp] theorem setDout_len (s : State) (v : Byte) : (s.setDout v).len = s.len := rfl

@[simp] theorem setErr_acc (s : State) (v : BitVec 4) : (s.setErr v).acc = s.acc := rfl
@[simp] theorem setErr_ckh (s : State) (v : BitVec 4) : (s.setErr v).ckh = s.ckh := rfl
@[simp] theorem setErr_ckl (s : State) (v : BitVec 4) : (s.setErr v).ckl = s.ckl := rfl
@[simp] theorem setErr_buf (s : State) (v : BitVec 4) : (s.setErr v).buf = s.buf := rfl
@[simp] theorem setErr_dout (s : State) (v : BitVec 4) : (s.setErr v).dout = s.dout := rfl
@[simp] theorem setErr_err (s : State) (v : BitVec 4) : (s.setErr v).err = v := rfl
@[simp] theorem setErr_selfchk (s : State) (v : BitVec 4) : (s.setErr v).selfchk = s.selfchk := rfl
@[simp] theorem setErr_bufsz (s : State) (v : BitVec 4) : (s.setErr v).bufsz = s.bufsz := rfl
@[simp] theorem setErr_host (s : State) (v : BitVec 4) : (s.setErr v).host = s.host := rfl
@[simp] theorem setErr_len (s : State) (v : BitVec 4) : (s.setErr v).len = s.len := rfl

@[simp] theorem setSelfchk_acc (s : State) (v : Bool) : (s.setSelfchk v).acc = s.acc := rfl
@[simp] theorem setSelfchk_ckh (s : State) (v : Bool) : (s.setSelfchk v).ckh = s.ckh := rfl
@[simp] theorem setSelfchk_ckl (s : State) (v : Bool) : (s.setSelfchk v).ckl = s.ckl := rfl
@[simp] theorem setSelfchk_buf (s : State) (v : Bool) : (s.setSelfchk v).buf = s.buf := rfl
@[simp] theorem setSelfchk_dout (s : State) (v : Bool) : (s.setSelfchk v).dout = s.dout := rfl
@[simp] theorem setSelfchk_err (s : State) (v : Bool) : (s.setSelfchk v).err = s.err := rfl
@[simp] theorem setSelfchk_selfchk (s : State) (v : Bool) : (s.setSelfchk v).selfchk = v := rfl
@[simp] theorem setSelfchk_bufsz (s : State) (v : Bool) : (s.setSelfchk v).bufsz = s.bufsz := rfl
@[simp] theorem setSelfchk_host (s : State) (v : Bool) : (s.setSelfchk v).host = s.host := rfl
@[simp] theorem setSelfchk_len (s : State) (v : Bool) : (s.setSelfchk v).len = s.len := rfl

@[simp] theorem setHost_acc (s : State) (e : List HostEvent) : (s.setHost e).acc = s.acc := rfl
@[simp] theorem setHost_ckh (s : State) (e : List HostEvent) : (s.setHost e).ckh = s.ckh := rfl
@[simp] theorem setHost_ckl (s : State) (e : List HostEvent) : (s.setHost e).ckl = s.ckl := rfl
@[simp] theorem setHost_buf (s : State) (e : List HostEvent) : (s.setHost e).buf = s.buf := rfl
@[simp] theorem setHost_dout (s : State) (e : List HostEvent) : (s.setHost e).dout = s.dout := rfl
@[simp] theorem setHost_err (s : State) (e : List HostEvent) : (s.setHost e).err = s.err := rfl
@[simp] theorem setHost_selfchk (s : State) (e : List HostEvent) : (s.setHost e).selfchk = s.selfchk := rfl
@[simp] theorem setHost_bufsz (s : State) (e : List HostEvent) : (s.setHost e).bufsz = s.bufsz := rfl
@[simp] theorem setHost_host (s : State) (e : List HostEvent) : (s.setHost e).host = e := rfl
@[simp] theorem setHost_len (s : State) (e : List HostEvent) : (s.setHost e).len = s.len := rfl

@[simp] theorem resetWith_acc (size : BufSize) : (resetWith size).acc = 0x0000 := rfl
@[simp] theorem resetWith_ckh (size : BufSize) : (resetWith size).ckh = 0x00 := rfl
@[simp] theorem resetWith_ckl (size : BufSize) : (resetWith size).ckl = 0x00 := rfl
@[simp] theorem resetWith_buf (size : BufSize) : (resetWith size).buf = [] := rfl
@[simp] theorem resetWith_dout (size : BufSize) : (resetWith size).dout = 0x00 := rfl
@[simp] theorem resetWith_err (size : BufSize) : (resetWith size).err = 0 := rfl
@[simp] theorem resetWith_selfchk (size : BufSize) : (resetWith size).selfchk = false := rfl
@[simp] theorem resetWith_bufsz (size : BufSize) : (resetWith size).bufsz = size := rfl
@[simp] theorem resetWith_host (size : BufSize) : (resetWith size).host = [] := rfl
@[simp] theorem resetWith_len (size : BufSize) : (resetWith size).len = 0 := rfl

/-- Writing back what the host has yet to do changes nothing. -/
@[simp] theorem setHost_self (s : State) : s.setHost s.host = s := rfl

end Sys2Proof.Machine.State
end

