-- ==== Sys2Proof/Laws/Ops.lean ====
section
/-! SUPPORT. What each shared operation does to each field: cited instead of unfolding the operation. -/

namespace Sys2Proof.Machine

/-! ### How an operation ends (spec/00_scope.md R8) -/

@[simp] theorem raise_acc (e : ErrKind) (s : State) : (raise e s).acc = s.acc := rfl
@[simp] theorem raise_ckh (e : ErrKind) (s : State) : (raise e s).ckh = s.ckh := rfl
@[simp] theorem raise_ckl (e : ErrKind) (s : State) : (raise e s).ckl = s.ckl := rfl
@[simp] theorem raise_buf (e : ErrKind) (s : State) : (raise e s).buf = s.buf := rfl
@[simp] theorem raise_dout (e : ErrKind) (s : State) : (raise e s).dout = s.dout := rfl
@[simp] theorem raise_err (e : ErrKind) (s : State) : (raise e s).err = errCode e := rfl
@[simp] theorem raise_selfchk (e : ErrKind) (s : State) : (raise e s).selfchk = s.selfchk := rfl
@[simp] theorem raise_bufsz (e : ErrKind) (s : State) : (raise e s).bufsz = s.bufsz := rfl
@[simp] theorem raise_host (e : ErrKind) (s : State) : (raise e s).host = s.host := rfl
@[simp] theorem raise_len (e : ErrKind) (s : State) : (raise e s).len = s.len := rfl

@[simp] theorem ok_acc (s : State) : (ok s).acc = s.acc := rfl
@[simp] theorem ok_ckh (s : State) : (ok s).ckh = s.ckh := rfl
@[simp] theorem ok_ckl (s : State) : (ok s).ckl = s.ckl := rfl
@[simp] theorem ok_buf (s : State) : (ok s).buf = s.buf := rfl
@[simp] theorem ok_dout (s : State) : (ok s).dout = s.dout := rfl
@[simp] theorem ok_err (s : State) : (ok s).err = 0 := rfl
@[simp] theorem ok_selfchk (s : State) : (ok s).selfchk = s.selfchk := rfl
@[simp] theorem ok_bufsz (s : State) : (ok s).bufsz = s.bufsz := rfl
@[simp] theorem ok_host (s : State) : (ok s).host = s.host := rfl
@[simp] theorem ok_len (s : State) : (ok s).len = s.len := rfl

@[simp] theorem illegalWord_acc (s : State) : (illegalWord s).acc = s.acc := rfl
@[simp] theorem illegalWord_ckh (s : State) : (illegalWord s).ckh = s.ckh := rfl
@[simp] theorem illegalWord_ckl (s : State) : (illegalWord s).ckl = s.ckl := rfl
@[simp] theorem illegalWord_buf (s : State) : (illegalWord s).buf = s.buf := rfl
@[simp] theorem illegalWord_dout (s : State) : (illegalWord s).dout = s.dout := rfl
@[simp] theorem illegalWord_err (s : State) : (illegalWord s).err = 1 := rfl
@[simp] theorem illegalWord_selfchk (s : State) : (illegalWord s).selfchk = s.selfchk := rfl
@[simp] theorem illegalWord_bufsz (s : State) : (illegalWord s).bufsz = s.bufsz := rfl
@[simp] theorem illegalWord_host (s : State) : (illegalWord s).host = s.host := rfl
@[simp] theorem illegalWord_len (s : State) : (illegalWord s).len = s.len := rfl

/-! ### The checksum registers -/

@[simp] theorem finalise_acc (s : State) : (finalise s).acc = s.acc := rfl
@[simp] theorem finalise_ckh (s : State) : (finalise s).ckh = adj (highByte s.acc) := rfl
@[simp] theorem finalise_ckl (s : State) : (finalise s).ckl = adj (lowByte s.acc) := rfl
@[simp] theorem finalise_buf (s : State) : (finalise s).buf = s.buf := rfl
@[simp] theorem finalise_dout (s : State) : (finalise s).dout = s.dout := rfl
@[simp] theorem finalise_err (s : State) : (finalise s).err = s.err := rfl
@[simp] theorem finalise_selfchk (s : State) : (finalise s).selfchk = s.selfchk := rfl
@[simp] theorem finalise_bufsz (s : State) : (finalise s).bufsz = s.bufsz := rfl
@[simp] theorem finalise_host (s : State) : (finalise s).host = s.host := rfl
@[simp] theorem finalise_len (s : State) : (finalise s).len = s.len := rfl

@[simp] theorem latchChecksum_acc (bytes : List Byte) (s : State) : (latchChecksum bytes s).acc = crcRaw bytes := rfl
@[simp] theorem latchChecksum_ckh (bytes : List Byte) (s : State) : (latchChecksum bytes s).ckh = (checksum bytes).1 := rfl
@[simp] theorem latchChecksum_ckl (bytes : List Byte) (s : State) : (latchChecksum bytes s).ckl = (checksum bytes).2 := rfl
@[simp] theorem latchChecksum_buf (bytes : List Byte) (s : State) : (latchChecksum bytes s).buf = s.buf := rfl
@[simp] theorem latchChecksum_dout (bytes : List Byte) (s : State) : (latchChecksum bytes s).dout = s.dout := rfl
@[simp] theorem latchChecksum_err (bytes : List Byte) (s : State) : (latchChecksum bytes s).err = s.err := rfl
@[simp] theorem latchChecksum_selfchk (bytes : List Byte) (s : State) : (latchChecksum bytes s).selfchk = s.selfchk := rfl
@[simp] theorem latchChecksum_bufsz (bytes : List Byte) (s : State) : (latchChecksum bytes s).bufsz = s.bufsz := rfl
@[simp] theorem latchChecksum_host (bytes : List Byte) (s : State) : (latchChecksum bytes s).host = s.host := rfl
@[simp] theorem latchChecksum_len (bytes : List Byte) (s : State) : (latchChecksum bytes s).len = s.len := rfl

/-! ### The encoder's last write -/

@[simp] theorem appendTrailer_acc (s : State) : (appendTrailer s).acc = s.acc := rfl
@[simp] theorem appendTrailer_ckh (s : State) : (appendTrailer s).ckh = s.ckh := rfl
@[simp] theorem appendTrailer_ckl (s : State) : (appendTrailer s).ckl = s.ckl := rfl
@[simp] theorem appendTrailer_buf (s : State) : (appendTrailer s).buf = s.buf ++ [s.ckh, s.ckl, terminator] := rfl
@[simp] theorem appendTrailer_dout (s : State) : (appendTrailer s).dout = s.dout := rfl
@[simp] theorem appendTrailer_err (s : State) : (appendTrailer s).err = s.err := rfl
@[simp] theorem appendTrailer_selfchk (s : State) : (appendTrailer s).selfchk = s.selfchk := rfl
@[simp] theorem appendTrailer_bufsz (s : State) : (appendTrailer s).bufsz = s.bufsz := rfl
@[simp] theorem appendTrailer_host (s : State) : (appendTrailer s).host = s.host := rfl
@[simp] theorem appendTrailer_len (s : State) : (appendTrailer s).len = s.len + 3 := by
  simp [State.len]

/-! ### The host's side -/

@[simp] theorem takeEvent_of_nil {s : State} (h : s.host = []) : takeEvent s = none := by simp [takeEvent, h]

theorem takeEvent_of_cons {s : State} {e : HostEvent} {rest : List HostEvent} (h : s.host = e :: rest) :
    takeEvent s = some (e, s.setHost rest) := by simp [takeEvent, h]

/-- Reset depends on nothing but the capacity and what the host has yet to do. -/
theorem assertReset_eq (s : State) : assertReset s = { State.resetWith s.bufsz with host := s.host } := rfl

@[simp] theorem continueWith_next (s : State) (k : State → Host.Outcome State Fault Refusal) :
    continueWith (.next s) k = k s := rfl

end Sys2Proof.Machine
end

