-- ==== Sys2Proof/Laws/Exec.lean ====
section
/-! SUPPORT. One inversion lemma per operation whose meaning has cases: everything it can do, guards included. -/

namespace Sys2Proof.Machine

/-- `ascii_ok` fails exactly when some byte is 0x80 or above (R81). -/
theorem asciiOk_eq_false_iff (p : List Byte) : asciiOk p = false ↔ ∃ b ∈ p, 0x80 ≤ b.toNat := by
  simp [asciiOk, Nat.lt_iff_add_one_le]

theorem asciiOk_iff (p : List Byte) : asciiOk p = true ↔ ∀ b ∈ p, b.toNat ≤ 0x7F := by simp [asciiOk]

theorem execPush_cases (imm : Byte) (s : State) :
    (isFull s.bufsz s.len = true ∧ execPush imm s = .next (raise .overflow s)) ∨
    (isFull s.bufsz s.len = false ∧ execPush imm s = .next (ok (s.setBuf (s.buf ++ [imm])))) := by
  cases h : isFull s.bufsz s.len <;> simp [execPush, h]

theorem execPop_cases (s : State) :
    (s.buf = [] ∧ execPop s = .next (raise .empty s)) ∨
    (∃ head rest, s.buf = head :: rest ∧ execPop s = .next (ok ((s.setDout head).setBuf rest))) := by
  cases h : s.buf with
  | nil => exact .inl ⟨rfl, by simp [execPop, h]⟩
  | cons head rest => exact .inr ⟨head, rest, rfl, by simp [execPop, h]⟩

theorem execCfg_cases (imm : Byte) (s : State) :
    (cfgImmLegal imm = true ∧ execCfg imm s = .next (ok (s.setSelfchk (selfchkBit imm)))) ∨
    (cfgImmLegal imm = false ∧ execCfg imm s = .next (illegalWord s)) := by
  cases h : cfgImmLegal imm <;> simp [execCfg, h]

theorem execEnc_cases (s : State) :
    (asciiOk s.buf = false ∧ execEnc s = .next (raise .nonascii s)) ∨
    (asciiOk s.buf = true ∧ exceeds s.bufsz (s.len + 3) = true ∧ execEnc s = .next (raise .overflow s)) ∨
    (asciiOk s.buf = true ∧ exceeds s.bufsz (s.len + 3) = false ∧
      execEnc s = .next (ok (appendTrailer (latchChecksum s.buf s)))) := by
  cases h : asciiOk s.buf <;> cases h' : exceeds s.bufsz (s.len + 3) <;> simp [execEnc, h, h']

/-- Checks 3 to 5 of `DEC`, on a state that holds the recomputed checksum. -/
theorem decideFrame_cases (s : State) :
    (checksumMatches s = false ∧ decideFrame s = raise .cksum s) ∨
    (checksumMatches s = true ∧ asciiOk (candidate s.buf) = false ∧ decideFrame s = raise .nonascii s) ∨
    (checksumMatches s = true ∧ asciiOk (candidate s.buf) = true ∧ s.selfchk = true ∧ selfcheckOk s = false ∧
      decideFrame s = raise .internal s) ∨
    (checksumMatches s = true ∧ asciiOk (candidate s.buf) = true ∧ (s.selfchk = true → selfcheckOk s = true) ∧
      decideFrame s = ok (s.setBuf (candidate s.buf))) := by
  cases h3 : checksumMatches s
  · simp [decideFrame, h3]
  · cases h4 : asciiOk (candidate s.buf)
    · simp [decideFrame, h3, h4]
    · cases h5 : s.selfchk <;> cases h6 : selfcheckOk s <;> simp [decideFrame, h3, h4, h5, h6]

theorem execDec_cases (s : State) :
    (s.len < 3 ∧ execDec s = .next (raise .short s)) ∨
    (3 ≤ s.len ∧ endsInTerminator s.buf = false ∧ execDec s = .next (raise .term s)) ∨
    (3 ≤ s.len ∧ endsInTerminator s.buf = true ∧
      execDec s = .next (decideFrame (latchChecksum (candidate s.buf) s))) := by
  by_cases h : s.len < 3
  · simp [execDec, h]
  · cases h' : endsInTerminator s.buf <;> simp [execDec, h, h'] <;> omega

end Sys2Proof.Machine
end

