-- ==== Sys2Proof/Laws/Exchange.lean ====
section
/-! SUPPORT. What a move of the dutiful host can do, said once, and the small lemmas of its ledger. -/

namespace Sys2Proof.Machine

@[simp] theorem free_frame : Ledger.free.frame = none := rfl
@[simp] theorem free_ops : Ledger.free.ops = [] := rfl
@[simp] theorem free_complete : Ledger.free.complete = false := rfl
@[simp] theorem add_frame (l : Ledger) (f : Nat) (i : Instr) (c : Bool) : (l.add f i c).frame = some f := rfl
@[simp] theorem add_ops (l : Ledger) (f : Nat) (i : Instr) (c : Bool) : (l.add f i c).ops = l.ops ++ [i] := rfl
@[simp] theorem add_complete (l : Ledger) (f : Nat) (i : Instr) (c : Bool) : (l.add f i c).complete = (l.complete || c) := rfl

/-- `BUF` may serve a frame exactly when it serves no other one. -/
theorem serves_iff (l : Ledger) (f : Nat) : l.serves f = true ↔ ∀ g, l.frame = some g → g = f := by
  cases h : l.frame <;> simp [Ledger.serves, h]

/-- Everything a move can do, its guard included. -/
theorem conductMove_eq_some {l l' : Ledger} {s t : State} {m : HostMove} :
    conductMove l s m = some (l', t) ↔
      l.permits s.len m = true ∧ step (s.setHost [m.event]) = .next t ∧ l' = l.record m := by
  unfold conductMove
  by_cases h : l.permits s.len m = true
  · cases step (s.setHost [m.event]) <;> simp [h, readStatus, eq_comm, and_comm]
  · simp [h, readStatus]

@[simp] theorem conduct_nil (l : Ledger) (s : State) : conduct [] l s = some (l, s) := rfl

/-- A run of several moves is a run of the first and one of the others. -/
theorem conduct_cons_eq_some {m : HostMove} {rest : List HostMove} {l l' : Ledger} {s t : State} :
    conduct (m :: rest) l s = some (l', t) ↔
      ∃ k u, conductMove l s m = some (k, u) ∧ conduct rest k u = some (l', t) := by
  simp only [conduct]
  cases h : conductMove l s m with
  | none => simp
  | some p => cases p; simp

end Sys2Proof.Machine
end

