-- ==== Sys2Proof/Laws/PerInstr.lean ====
section
/-! SUPPORT. Statements made of every operation as syntax, one lemma per constructor. -/

/-- The command word of an operation holds its operation code and its immediate in the two fields of `CMD12`
(spec/30_encoding.md R45). -/
def Sys2Proof.Laws.WordFields.Statement (i : Sys2Proof.Instr) : Prop :=
  Sys2Proof.opField (Sys2Proof.encode i) = i.opcode ∧ Sys2Proof.immField (Sys2Proof.encode i) = i.immediate

namespace Sys2Proof.Laws.WordFields

/-- The two fields do not overlap, whatever they hold. -/
theorem fields_of_word : ∀ (op : Nibble) (imm : Byte),
    opField ((op.setWidth 12 <<< 8) + imm.setWidth 12) = op ∧
    immField ((op.setWidth 12 <<< 8) + imm.setWidth 12) = imm := by
  intro op imm
  constructor <;> simp only [opField, immField] <;> apply BitVec.eq_of_toNat_eq <;>
    simp [BitVec.extractLsb'_toNat, Nat.shiftRight_eq_div_pow, Nat.shiftLeft_eq] <;> omega

theorem clr : Statement .clr := fields_of_word _ _
theorem abs (imm : Byte) : Statement (.abs imm) := fields_of_word _ _
theorem fin : Statement .fin := fields_of_word _ _
theorem csum : Statement .csum := fields_of_word _ _
theorem rstb : Statement .rstb := fields_of_word _ _
theorem push (imm : Byte) : Statement (.push imm) := fields_of_word _ _
theorem pop : Statement .pop := fields_of_word _ _
theorem enc : Statement .enc := fields_of_word _ _
theorem dec : Statement .dec := fields_of_word _ _
theorem cfg (imm : Byte) : Statement (.cfg imm) := fields_of_word _ _

end Sys2Proof.Laws.WordFields
end

