-- ==== Sys2Proof/Tests/Slice0.lean ====
section
/-! SUPPORT. Small tests. Expected values come from spec/95_test_vectors.md (the row is named) or from the encodings of
spec/30_encoding.md R46, written out; none is the model's own answer. The last part shows, for every statement with
hypotheses, a state and operands that meet all of them. -/

namespace Sys2Proof.Tests

open Sys2Proof.Machine Sys2Proof.Spec

/-- The state an outcome goes on to. -/
def after : Host.Outcome Machine.State Fault Refusal → Option Machine.State
  | .next s => some s
  | .fault _ => none
  | .refused _ => none

/-- The start state of the tables of spec/95_test_vectors.md section 2.6 and 2.7 with the given buffer: `ACC` 0x1234,
`CKH` 0x55, `CKL` 0x66. -/
def start (buf : Buffer) (size : BufSize := .unbounded) : Machine.State :=
  { State.resetWith size with acc := 0x1234, ckh := 0x55, ckl := 0x66, buf := buf }

/-- `BUFSZ` = 8, as in rows Q6, E12 and program P7. -/
def eight : BufSize := .bounded 8 (by decide)

/-! ### Decoding: one word for every row of R46, written out bit by bit (`op` then `imm`) -/

theorem test_decode_clr : decode 0b0000_00000000 = some .clr := by decide
theorem test_decode_abs : decode 0b0001_01010001 = some (.abs 0x51) := by decide
theorem test_decode_fin : decode 0b0010_00000000 = some .fin := by decide
theorem test_decode_csum : decode 0b0011_00000000 = some .csum := by decide
theorem test_decode_rstb : decode 0b0100_00000000 = some .rstb := by decide
theorem test_decode_push : decode 0b0101_11111110 = some (.push 0xFE) := by decide
theorem test_decode_pop : decode 0b0110_00000000 = some .pop := by decide
theorem test_decode_enc : decode 0b0111_00000000 = some .enc := by decide
theorem test_decode_dec : decode 0b1000_00000000 = some .dec := by decide
theorem test_decode_cfg : decode 0b1001_00000001 = some (.cfg 0x01) := by decide

/-- Section 2.8: the illegal words listed there. -/
theorem test_decode_illegal : ∀ w ∈ ([0xA00, 0xB12, 0xFFF, 0x001, 0x2FF, 0x380, 0x401, 0x610, 0x7FF, 0x801, 0x902, 0x903,
    0x9FE, 0x9FF] : List CommandWord), decode w = none := by decide

theorem test_table_word : decodeTableWord 16 0x551 = some (.push 0x51) := by decide
theorem test_table_word_too_wide : decodeTableWord 16 0x1551 = none := by decide

/-! ### WellFormed: the one check refuses an ill-formed term -/

theorem test_ill_formed_cfg : (Instr.cfg 0x02).wellFormed = false := by decide
theorem test_well_formed_cfg : (Instr.cfg 0x01).wellFormed = true := by decide

/-! ### The assembler and the pseudo-operations -/

/-- R52: "`'Q'` is 0x51". -/
theorem test_assemble_quote : assembleWord ['P', 'U', 'S', 'H', ' ', '\'', 'Q', '\''] = some 0x551 := by decide
theorem test_assemble_decimal : assembleWord ['A', 'B', 'S', ' ', '2', '5', '5', ' ', ';', 'x'] = some 0x1FF := by decide
/-- P9's `DRAIN` is as many `POP`s as `LEN` shows. -/
theorem test_expand_drain : expand 3 .drain = [.pop, .pop, .pop] := by decide
/-- P1: `CHECKSUM "QPI"` is the words 0x000 0x151 0x150 0x149 0x200. -/
theorem test_expand_checksum : (expand 0 (.checksum [0x51, 0x50, 0x49])).map encode =
    [0x000, 0x151, 0x150, 0x149, 0x200] := by decide

/-! ### The checksum engine -/

/-- Table N, rows N3 to N6 and N8. -/
theorem test_crc_nibble : crcNibble 0x50A5 0x1 = 0x4AD4 ∧ crcNibble 0xFFFF 0xF = 0xFFF0 ∧ crcNibble 0xFFFF 0x0 = 0x0E1F ∧
    crcNibble 0x8000 0x0 = 0x8108 ∧ crcNibble 0x0FFF 0xA = 0x5EBA := by decide
/-- Table B, rows B4 to B7 and B10. -/
theorem test_crc_byte : crcByte 0x0000 0xFF = 0x1EF0 ∧ crcByte 0xFFFF 0x00 = 0xE1F0 ∧ crcByte 0xFFFF 0xFF = 0xFF00 ∧
    crcByte 0xBEAC 0x0D = 0x3BB8 ∧ crcByte 0x1234 0x56 = 0x3C40 := by decide
/-- V8: the sequence `123456789`. -/
theorem test_crc_raw : crcRaw [0x31, 0x32, 0x33, 0x34, 0x35, 0x36, 0x37, 0x38, 0x39] = 0x31C3 := by decide
/-- K3.7: both raw bytes reserved, each adjusted on its own. -/
theorem test_checksum_both : checksum [0x41, 0x49, 0x4C, 0x5A] = (0x29, 0x0B) := by decide

/-- O1. -/
theorem test_clr : after (exec .clr { start [] with acc := 0xBEAC, err := 7 }) = some { start [] with acc := 0x0000, err := 0 } := by
  decide
/-- O3. -/
theorem test_abs : (after (exec (.abs 0x50) { start [] with acc := 0x4AD4 })).map (·.acc) = some 0x677B := by decide
/-- O5. -/
theorem test_abs_all_values : (after (exec (.abs 0xFF) { start [] with acc := 0xFFFF })).map (·.acc) = some 0xFF00 := by decide
/-- O7. -/
theorem test_fin : (after (exec .fin { start [] with acc := 0xE20A })).map (fun s => (s.acc, s.ckh, s.ckl)) =
    some (0xE20A, 0xE2, 0x0B) := by decide
/-- O9. -/
theorem test_fin_no_carry : (after (exec .fin { start [] with acc := 0x0DFF })).map (fun s => (s.ckh, s.ckl)) =
    some (0x0E, 0xFF) := by decide
/-- O12: from `ACC` 0x1234. -/
theorem test_csum : (after (exec .csum (start [0x50, 0x4F, 0x50, 0x30, 0x32]))).map
    (fun s => (s.acc, s.ckh, s.ckl, s.buf)) = some (0xE20A, 0xE2, 0x0B, [0x50, 0x4F, 0x50, 0x30, 0x32]) := by decide
/-- O14. -/
theorem test_csum_no_seven_bit_test : (after (exec .csum (start [0x80]))).map (·.acc) = some 0x9188 := by decide

/-! ### Buffer and configuration -/

/-- Q1. -/
theorem test_rstb : after (exec .rstb { start [0x51, 0x50] with dout := 0x49, err := 2 }) =
    some { start [] with dout := 0x49, err := 0 } := by decide
/-- Q4. -/
theorem test_push : (after (exec (.push 0xFF) (start [0x51]))).map (·.buf) = some [0x51, 0xFF] := by decide
/-- Q6: a full buffer of `BUFSZ` 8. -/
theorem test_push_overflow : after (exec (.push 0x41) (start [1, 2, 3, 4, 5, 6, 7, 8] eight)) =
    some { start [1, 2, 3, 4, 5, 6, 7, 8] eight with err := 2 } := by decide
/-- Q8. -/
theorem test_pop : (after (exec .pop (start [0x51, 0x50, 0x49]))).map (fun s => (s.dout, s.buf, s.err)) =
    some (0x51, [0x50, 0x49], 0) := by decide
/-- Q9: `DOUT` keeps its last value. -/
theorem test_pop_empty : after (exec .pop { start [] with dout := 0x0D }) = some { start [] with dout := 0x0D, err := 3 } := by
  decide
/-- Q11. -/
theorem test_cfg : (after (exec (.cfg 0x01) (start []))).map (fun s => (s.selfchk, s.err)) = some (true, 0) := by decide
/-- Q14: `CFG 2` is illegal and `imm[0]` is not applied. -/
theorem test_cfg_illegal : (after (executeWord 0x902 { start [] with selfchk := true })).map (fun s => (s.selfchk, s.err)) =
    some (true, 1) := by decide

/-! ### Encoder and decoder -/

/-- E12: `LEN` = `BUFSZ - 3` fits exactly. -/
theorem test_enc_fits : (after (exec .enc (start [0x51, 0x50, 0x49, 0x47, 0x53] eight))).map (fun s => (s.acc, s.buf, s.err)) =
    some (0xB7A9, [0x51, 0x50, 0x49, 0x47, 0x53, 0xB7, 0xA9, 0x0D], 0) := by decide
/-- E14: both checks fail, non-ASCII is reported and nothing else changes. -/
theorem test_enc_nonascii_first : after (exec .enc (start [0x51, 0x80, 0x49, 0x47, 0x53, 0x31] eight)) =
    some { start [0x51, 0x80, 0x49, 0x47, 0x53, 0x31] eight with err := 4 } := by decide
/-- D24: `DEC` counts from the tail and does not stop at the inner 0x0D. -/
theorem test_dec_inner_terminator : (after (exec .dec (start [0x51, 0x50, 0x49, 0x0D, 0x3B, 0xB8, 0x0D]))).map
    (fun s => (s.acc, s.ckh, s.ckl, s.buf, s.err)) = some (0x3BB8, 0x3B, 0xB8, [0x51, 0x50, 0x49, 0x0D], 0) := by decide
/-- D18: a raw reserved byte at a checksum position is refused, and the recomputed checksum stays. -/
theorem test_dec_unadjusted : (after (exec .dec (start [0x50, 0x4F, 0x50, 0x30, 0x32, 0xE2, 0x0A, 0x0D]))).map
    (fun s => (s.acc, s.ckh, s.ckl, s.len, s.err)) = some (0xE20A, 0xE2, 0x0B, 8, 7) := by decide

/-! ### The step -/

/-- R22, R109: events are taken in order, and reset leaves the reset values. -/
theorem test_step_reset : after (step { start [0x51] with host := [.reset, .command 0x551] }) =
    some { State.resetWith .unbounded with host := [.command 0x551] } := by decide
/-- Section 2.8: an illegal word from its start state. -/
theorem test_step_illegal : after (step { start [0x51, 0x50] with host := [.command 0xB12] }) =
    some { start [0x51, 0x50] with err := 1 } := by decide
/-- The first `PUSH` after reset, for every `BUFSZ` (Q3). -/
theorem test_first_push : (after (step (State.reset.withFetchWord 16 0x551))).map (fun s => (s.buf, s.err)) =
    some ([0x51], 0) := by decide

/-! ### Witnesses: the hypotheses of each statement can be met together -/

theorem witness_DecodeAndEncodeAgree : (Instr.cfg 0x01).wellFormed = true ∧ (∀ i ∈ [Instr.clr, .push 0x51], i.wellFormed = true) ∧
    [Instr.clr, .push 0x51].map encode = [0x000, 0x551] := by decide
theorem witness_DecodedWordEncodesBack : decode 0x901 = some (.cfg 0x01) := by decide
theorem witness_DecoderAgreesWithTheOpcodeTable : decode 0x5FF = some (.push 0xFF) ∧ ⟨"PUSH", 0x500, 0xF00⟩ ∈ opcodeTable := by
  decide
theorem witness_PrintedLineAssemblesToItsWord : (Instr.push 0xFF).wellFormed = true := by decide
theorem witness_StepRunsTheDecodedInstruction :
    ({ start [] with host := [.command 0x551] } : Machine.State).host = .command 0x551 :: [] ∧ decode 0x551 = some (.push 0x51) := by
  decide
/-- One word for each of the three ways of being illegal, at the edge of its range. -/
theorem witness_IllegalWordSetsErrAndNothingElse : IllegalWord 0xA00 ∧ IllegalWord 0x801 ∧ IllegalWord 0x902 ∧
    ({ start [] with host := [.command 0xA00] } : Machine.State).host = .command 0xA00 :: [] := by
  refine ⟨by unfold IllegalWord; decide, by unfold IllegalWord; decide, by unfold IllegalWord; decide, rfl⟩
theorem witness_ResetStepLeavesTheResetState :
    ({ start [0x51] with host := [.reset] } : Machine.State).host = .reset :: [] := rfl
theorem witness_IdleStepHoldsTheState : (start [0x51]).host = [] := rfl
theorem witness_IssuedWordsExecuteInOrder : ∀ i ∈ [Instr.rstb, .push 0x51, .enc], i.wellFormed = true := by decide
theorem witness_PlacedWordRunsNext : decodeTableWord 16 0x901 = some (.cfg 0x01) := by decide

/-- The state after program P7's first `ENC`: `BUF` full, and not a reset state. -/
theorem witness_fullState_inv : (start [0x51, 0x50, 0x49, 0x47, 0x53, 0xB7, 0xA9, 0x0D] eight).Inv :=
  ⟨by decide, by decide, by decide, by decide⟩
theorem witness_InvariantsHoldWhenReachableAndAreKept_step :
    (start [0x51] eight).Inv ∧ step (start [0x51] eight) = .next (start [0x51] eight) :=
  ⟨⟨by decide, by decide, by decide, by decide⟩, rfl⟩
theorem witness_InvariantsHoldWhenReachableAndAreKept_reachable :
    Reachable eight { State.resetWith eight with buf := [0x51] } :=
  .step ((State.resetWith eight).setHost [.command 0x551]) _ (.issue _ _ .start) rfl
theorem witness_CrcStepStructure : DifferInOneByte [0x51, 0x50, 0x49] [0x51, 0x58, 0x49] :=
  ⟨[0x51], [0x49], 0x50, 0x58, by decide, rfl, rfl⟩

/-- Room for one more byte, and none: both sides of `LEN = BUFSZ` at the edge. -/
theorem witness_PushAppendsOrOverflows :
    (∀ cap h, (start [1, 2, 3, 4, 5, 6, 7] eight).bufsz = .bounded cap h →
      (start [1, 2, 3, 4, 5, 6, 7] eight).buf.length ≠ cap) ∧
    (start [1, 2, 3, 4, 5, 6, 7, 8] eight).bufsz = .bounded 8 (by decide) ∧
    (start [1, 2, 3, 4, 5, 6, 7, 8] eight).buf.length = 8 := by
  refine ⟨?_, rfl, rfl⟩
  intro cap h e
  cases e
  decide
theorem witness_PopDeliversTheHead : (start [0x0D]).buf = 0x0D :: [] ∧ (start []).buf = [] := by decide
theorem witness_CfgWritesTheSelfCheckBit : (0x02#8).toNat / 2 ≠ 0 ∧ (0xFF#8).toNat / 2 ≠ 0 := by decide
theorem witness_PopsDeliverTheBytesInOrder : 1 < (start [0x51, 0x50]).buf.length := by decide

/-- A capacity of `n` or more has room for `n` bytes. -/
theorem fits_eight {n : Nat} (h : n ≤ 8) : Fits eight n := by
  intro cap h' e
  cases e
  exact h

/-- A payload that just fits (E12), one byte of 0x80 (E8), and one that just does not fit (E13). -/
theorem witness_EncEncodesInPlace :
    (SevenBit (start [0x51, 0x50, 0x49, 0x47, 0x7F] eight).buf ∧
      Fits (start [0x51, 0x50, 0x49, 0x47, 0x7F] eight).bufsz ((start [0x51, 0x50, 0x49, 0x47, 0x7F] eight).buf.length + 3)) ∧
    (0x80#8 ∈ (start [0x80]).buf ∧ 0x80 ≤ (0x80#8).toNat) ∧
    (SevenBit (start [0x51, 0x50, 0x49, 0x47, 0x53, 0x31] eight).buf ∧
      (start [0x51, 0x50, 0x49, 0x47, 0x53, 0x31] eight).bufsz = .bounded 8 (by decide) ∧
      8 < (start [0x51, 0x50, 0x49, 0x47, 0x53, 0x31] eight).buf.length + 3) :=
  ⟨⟨by unfold SevenBit; decide, fits_eight (by decide)⟩, ⟨by decide, by decide⟩,
    ⟨by unfold SevenBit; decide, rfl, by decide⟩⟩
theorem witness_EncodedFrameFacts :
    (∃ f, encodePayload [0x51, 0x50, 0x49] = .ok f) ∧ 0x0D ∉ ([0x51, 0x50, 0x49] : List Byte) ∧
    (start [0x51]).buf = ({ start [0x51] with acc := 0 } : Machine.State).buf ∧
    (∃ t, exec .enc (start [0x51]) = .next t) ∧ ∃ t, exec .enc { start [0x51] with acc := 0 } = .next t :=
  ⟨⟨_, rfl⟩, by decide, rfl, ⟨_, rfl⟩, ⟨_, rfl⟩⟩

/-- `QPI`'s checksum bytes are above 0x7F (E10), `(NAK`'s are not (V2). -/
theorem witness_CsumIsIdempotentAndEncIsNot :
    (∃ t, exec .csum (start [0x51]) = .next t) ∧
    (∃ t, exec .enc (start [0x51, 0x50, 0x49]) = .next t ∧ t.err = 0 ∧ 0x80 ≤ t.ckh.toNat) ∧
    (∃ t, exec .enc (start [0x28, 0x4E, 0x41, 0x4B]) = .next t ∧ t.err = 0 ∧ t.ckh.toNat ≤ 0x7F ∧ t.ckl.toNat ≤ 0x7F ∧
      Fits t.bufsz (t.buf.length + 3)) :=
  ⟨⟨_, rfl⟩, ⟨_, rfl, by decide, by decide⟩, ⟨_, rfl, by decide, by decide, by decide, fun _ _ e => nomatch e⟩⟩

/-- D4 (two bytes), D6, D14, D22 and D5. -/
theorem witness_DecDecodesInPlace :
    (start [0x41, 0x42]).buf.length < 3 ∧
    ((start [0x00, 0x00, 0x0A]).buf = [0x00, 0x00] ++ [0x0A] ∧ (0x0A : Byte) ≠ 0x0D) ∧
    ((start [0x51, 0x50, 0x49, 0xBF, 0xAC, 0x0D]).buf = [0x51, 0x50, 0x49] ++ [0xBF, 0xAC, 0x0D] ∧
      IsChecksum [0x51, 0x50, 0x49] 0xBE 0xAC ∧ (0xBE : Byte) ≠ 0xBF) ∧
    ((start [0x80, 0x91, 0x88, 0x0D]).buf = [0x80] ++ [0x91, 0x88, 0x0D] ∧ IsChecksum [0x80] 0x91 0x88 ∧
      0x80 ≤ (0x80#8).toNat) ∧
    ((start [0x00, 0x00, 0x0D]).buf = [] ++ [0x00, 0x00, 0x0D] ∧ IsChecksum [] 0x00 0x00 ∧ SevenBit []) := by
  unfold IsChecksum SevenBit
  decide
theorem witness_SelfCheckNeverFires : ∃ t, exec .dec { start [0x00, 0x00, 0x0D] with selfchk := true } = .next t := ⟨_, rfl⟩
theorem witness_EncodeThenDecodeGivesThePayloadBack :
    SevenBit [0x28, 0x0D, 0x0A, 0x7F, 0x00] ∧ Fits (start [] eight).bufsz (([0x28, 0x0D, 0x0A, 0x7F, 0x00] : List Byte).length + 3) :=
  ⟨by unfold SevenBit; decide, fits_eight (by decide)⟩
theorem witness_TamperDetection : IsChecksum [0x51, 0x50, 0x49] 0xBE 0xAC ∧ (0xBF : Byte) ≠ 0xBE ∧ (0xAD : Byte) ≠ 0xAC ∧
    DifferInOneByte [0x51, 0x50, 0x49] [0xD1, 0x50, 0x49] ∧ (0x0D : Byte) ∈ ([0x28, 0x0D, 0x0A] : List Byte) ∧
    (0x0A : Byte) ≠ 0x0D :=
  ⟨by unfold IsChecksum; decide, by decide, by decide, ⟨[], [0x50, 0x49], 0x51, 0xD1, by decide, rfl, rfl⟩, by decide,
    by decide⟩
theorem witness_StreamFedBufferIsTerminated : (0x0D : Byte) ∉ ([0x28, 0x33, 0x30, 0x49, 0xF2] : List Byte) ∧
    Fits (start [] eight).bufsz (([0x28, 0x33, 0x30, 0x49, 0xF2] : List Byte).length + 1) :=
  ⟨by decide, fits_eight (by decide)⟩
theorem witness_CommandSequencesComputeTheFunctions : Fits (start [] eight).bufsz (([1, 2, 3, 4, 5, 6, 7, 8] : List Byte).length) ∧
    Fits (start [] eight).bufsz (([1, 2, 3, 4, 5] : List Byte).length + 3) :=
  ⟨fits_eight (by decide), fits_eight (by decide)⟩

/-- Each of the clauses of the two frame statements: an operation that may not write the field, a failure, and a success. -/
theorem witness_WriteSetsOfTheOperations :
    (∃ t, exec .fin (start []) = .next t ∧ mayWriteAcc .fin = false) ∧
    (∃ t, exec .clr (start []) = .next t ∧ mayWriteChecksum .clr = false) ∧
    (∃ t, exec (.push 0x41) (start [1, 2, 3, 4, 5, 6, 7, 8] eight) = .next t ∧ t.err ≠ 0) ∧
    (∃ t, exec .pop (start []) = .next t ∧ t.err ≠ 0) ∧ (∃ t, exec (.cfg 0x02) (start []) = .next t ∧ t.err ≠ 0) ∧
    (∃ t, exec .enc (start [0x80]) = .next t ∧ t.err ≠ 0) ∧
    (∃ t, exec .dec (start [0x0D]) = .next t ∧ t.err = 5) ∧ (∃ t, exec .dec (start [0x00, 0x00, 0x0A]) = .next t ∧ t.err = 6) :=
  ⟨⟨_, rfl, rfl⟩, ⟨_, rfl, rfl⟩, ⟨_, rfl, by decide⟩, ⟨_, rfl, by decide⟩, ⟨_, rfl, by decide⟩, ⟨_, rfl, by decide⟩,
    ⟨_, rfl, by decide⟩, ⟨_, rfl, by decide⟩⟩
theorem witness_BytesOfTheBufferThatStay :
    (∃ t, exec .csum (start [0x51]) = .next t ∧ mayWriteBuf .csum = false) ∧
    (∃ t, exec (.push 0x50) (start [0x51]) = .next t ∧ t.err = 0) ∧ (∃ t, exec .pop (start [0x51]) = .next t ∧ t.err = 0) ∧
    (∃ t, exec .rstb (start [0x51]) = .next t) ∧ (∃ t, exec .enc (start [0x51]) = .next t ∧ t.err = 0) ∧
    (∃ t, exec .dec (start [0x00, 0x00, 0x0D]) = .next t ∧ t.err = 0) :=
  ⟨⟨_, rfl, rfl⟩, ⟨_, rfl, by decide⟩, ⟨_, rfl, by decide⟩, ⟨_, rfl⟩, ⟨_, rfl, by decide⟩, ⟨_, rfl, by decide⟩⟩

/-- D14 and D22 (the recomputed checksum stays) and an illegal word (nothing does but `ERR`). -/
theorem witness_StateAfterAFailure :
    (∃ t, executeWord 0xA00 (start []) = .next t ∧ t.err ≠ 0 ∧ decode 0xA00 ≠ some .dec) ∧
    (∃ t, executeWord 0x800 (start [0x51, 0x50, 0x49, 0xBF, 0xAC, 0x0D]) = .next t ∧ t.err = 7 ∧ decode 0x800 = some .dec) ∧
    (∃ t, executeWord 0x800 (start [0x80, 0x91, 0x88, 0x0D]) = .next t ∧ t.err = 4) :=
  ⟨⟨_, rfl, by decide, by decide⟩, ⟨_, rfl, by decide, by decide⟩, ⟨_, rfl, by decide⟩⟩
theorem witness_CodesEachOperationReports : (∃ t, exec .pop (start []) = .next t) ∧
    ∃ t, executeWord 0xFFF (start []) = .next t := ⟨⟨_, rfl⟩, ⟨_, rfl⟩⟩
theorem witness_ResultRegistersAreNotRead : (∃ t, exec .fin (start []) = .next t ∧ mayWriteChecksum .fin = true ∧ t.err = 0) ∧
    ∃ t, exec .pop (start [0x51]) = .next t ∧ t.err = 0 := ⟨⟨_, rfl, rfl, by decide⟩, ⟨_, rfl, by decide⟩⟩
theorem witness_OnlyAbsAndFinReadTheAccumulator : (∀ b, Instr.csum ≠ .abs b) ∧ Instr.csum ≠ .fin ∧
    ∃ t, exec .csum (start [0x51]) = .next t ∧ mayWriteAcc .csum = true ∧ t.err = 0 :=
  ⟨fun _ e => (nomatch e), by decide, ⟨_, rfl, rfl, by decide⟩⟩
theorem witness_SelfCheckBitChangesOnlyByCfgOrReset :
    ∃ t, step { start [] with host := [.command 0x901] } = .next t ∧ t.selfchk ≠ (start []).selfchk :=
  ⟨_, rfl, by decide⟩
theorem witness_DataOutChangesOnlyByPopOrReset :
    ∃ t, step { start [0x51] with host := [.command 0x600] } = .next t ∧ t.dout ≠ (start [0x51]).dout :=
  ⟨_, rfl, by decide⟩
theorem witness_StatusPortHidesTheBufferContent : blindToContent (.push 0x41) = true ∧
    readStatus (start [0x51]) = readStatus (start [0x50]) ∧ (∃ t, exec (.push 0x41) (start [0x51]) = .next t) ∧
    ∃ t, exec (.push 0x41) (start [0x50]) = .next t := ⟨rfl, by decide, ⟨_, rfl⟩, ⟨_, rfl⟩⟩

theorem witness_PopCompletesInEveryState : (start [0x0D]).buf ≠ [] ∧ (start []).buf = [] := by decide

/-! ### One exchange at a time (R126) -/

/-- The moves of a request's frame, and the first of the response's before the request is drained: the last is none. -/
theorem test_conduct_not_drained :
    (conduct (movesFor 1 [.rstb, .push 0x51, .enc, .pop]) Ledger.free (State.resetWith .unbounded)).isSome = true ∧
    (conduct (movesFor 1 [.rstb, .push 0x51, .enc, .pop] ++ movesFor 2 [.rstb]) Ledger.free
      (State.resetWith .unbounded)).isSome = false := by decide
/-- The frame that `BUF` serves is 1, complete, and not drained; and a `PUSH` for any frame has its last place of eight. -/
theorem witness_HostHasNoMoveThatMixesTwoFrames : ∃ l s,
    conduct (movesFor 1 [.rstb, .push 0x51, .enc]) Ledger.free (State.resetWith .unbounded) = some (l, s) ∧
    l.frame = some 1 ∧ (2 : Nat) ≠ 1 ∧ s.buf ≠ [] ∧ l.complete = true ∧ (Instr.cfg 0x01).wellFormed = true ∧
    Fits eight ((start [1, 2, 3, 4, 5, 6, 7] eight).buf.length + 1) :=
  ⟨_, _, rfl, rfl, by decide, by decide, rfl, by decide, fits_eight (by decide)⟩
/-- Two frames one after the other, the second under way with a checksum stream beside it; one with its `ENC` behind it; and
the reset state, in which `BUF` serves none. -/
theorem witness_BufHoldsOneFrameAlone : (∃ l s,
    conduct (movesFor 1 [.rstb, .push 0x51, .enc, .pop, .pop, .pop, .pop] ++ movesFor 2 [.rstb, .push 0x41] ++ movesFor 3 [.clr])
      Ledger.free (State.resetWith eight) = some (l, s) ∧ l.frame = some 2 ∧ s.buf = [0x41]) ∧
    bufOps (movesFor 1 [.push 0x51, .enc, .pop]) = [.push 0x51] ++ .enc :: [.pop] ∧
    conduct [] Ledger.free (State.resetWith eight) = some (Ledger.free, State.resetWith eight) ∧ Ledger.free.frame = none ∧
    eight = (start [1, 2] eight).bufsz :=
  ⟨⟨_, _, rfl, rfl, by decide⟩, by decide, rfl, rfl, rfl⟩
theorem witness_OneExchangeRunsToItsEnd : SevenBit [0x51, 0x50, 0x49] ∧
    Fits eight (([0x51, 0x50, 0x49] : List Byte).length + 3) ∧ Fits eight ([0x28, 0x4E, 0x41, 0x4B, 0x73, 0x73, 0x0D] : List Byte).length :=
  ⟨by unfold SevenBit; decide, fits_eight (by decide), fits_eight (by decide)⟩

end Sys2Proof.Tests
end

section
/-! SUPPORT. The capacity tests, said with the one predicate `Fits` (spec/00_scope.md R5). -/

namespace Sys2Proof.Proofs

open Sys2Proof.Machine Sys2Proof.Spec

@[simp] theorem fits_unbounded (n : Nat) : Fits .unbounded n := fun _ _ e => nomatch e

@[simp] theorem fits_bounded (cap : Nat) (h : 3 ≤ cap) (n : Nat) : Fits (.bounded cap h) n ↔ n ≤ cap := by
  refine ⟨fun hn => hn cap h rfl, fun hn cap' h' e => ?_⟩
  cases e
  exact hn

/-- Fewer bytes fit as well. -/
theorem fits_of_le {size : BufSize} {m n : Nat} (hn : Fits size n) (hm : m ≤ n) : Fits size m :=
  fun cap h e => Nat.le_trans hm (hn cap h e)

theorem withinCapacity_iff_fits (size : BufSize) (n : Nat) : withinCapacity size n = true ↔ Fits size n := by
  cases size <;> simp [withinCapacity]

/-- What passes the test of `ENC` fits (R83). -/
theorem exceeds_eq_false_iff_fits (size : BufSize) (n : Nat) : exceeds size n = false ↔ Fits size n := by
  cases size <;> simp

/-- What passes the test of `PUSH` has room for one more byte (R71). -/
theorem fits_succ_iff (size : BufSize) (n : Nat) :
    Fits size (n + 1) ↔ Fits size n ∧ isFull size n = false := by
  cases size with
  | unbounded => simp
  | bounded cap h => simp; omega

end Sys2Proof.Proofs
end

section
/-! SUPPORT. The invariants of spec/10_state.md R25: each way of writing the state keeps them, therefore each operation
and each step, and therefore every reachable state has them. -/

namespace Sys2Proof.Proofs

open Sys2Proof.Machine Sys2Proof.Spec

variable {s : Machine.State}

/-- The codes of R100 end at 8. -/
theorem errCode_le_eight (e : ErrKind) : (errCode e).toNat ≤ 8 := by
  cases e <;> decide

theorem inv_resetWith (size : BufSize) : (State.resetWith size).Inv where
  lenWithinCapacity := by cases size <;> simp [withinCapacity]
  errAtMostEight := by simp
  ckhNotReserved := by simp [reserved]
  cklNotReserved := by simp [reserved]

theorem inv_setHost (hs : s.Inv) (events : List HostEvent) : (s.setHost events).Inv :=
  { hs with }

theorem inv_setAcc (hs : s.Inv) (v : Word16) : (s.setAcc v).Inv :=
  { hs with }

theorem inv_setDout (hs : s.Inv) (v : Byte) : (s.setDout v).Inv :=
  { hs with }

theorem inv_setSelfchk (hs : s.Inv) (v : Bool) : (s.setSelfchk v).Inv :=
  { hs with }

theorem inv_raise (hs : s.Inv) (e : ErrKind) : (raise e s).Inv :=
  { hs with errAtMostEight := errCode_le_eight e }

theorem inv_ok (hs : s.Inv) : (ok s).Inv := inv_raise hs .ok

/-- `FIN` writes adjusted bytes alone (R60, R64). -/
theorem inv_finalise (hs : s.Inv) : (finalise s).Inv :=
  { hs with
    ckhNotReserved := adj_not_reserved _
    cklNotReserved := adj_not_reserved _ }

theorem inv_latchChecksum (hs : s.Inv) (bytes : List Byte) : (latchChecksum bytes s).Inv :=
  inv_finalise (inv_setAcc hs _)

theorem inv_setBuf (hs : s.Inv) {b : Buffer} (hb : Fits s.bufsz b.length) : (s.setBuf b).Inv :=
  { hs with lenWithinCapacity := (withinCapacity_iff_fits _ _).mpr hb }

theorem fits_of_inv (hs : s.Inv) : Fits s.bufsz s.buf.length :=
  (withinCapacity_iff_fits _ _).mp hs.lenWithinCapacity

/-- A buffer that is no longer than the old one is within the capacity. -/
theorem inv_setBuf_of_length_le (hs : s.Inv) {b : Buffer} (hb : b.length ≤ s.buf.length) : (s.setBuf b).Inv :=
  inv_setBuf hs (fits_of_le (fits_of_inv hs) hb)

theorem inv_appendTrailer (hs : s.Inv) (room : Fits s.bufsz (s.len + 3)) : (appendTrailer s).Inv :=
  inv_setBuf hs (by simpa [State.len] using room)

/-- The end of `DEC` keeps the invariants on each of its four ways. -/
theorem inv_decideFrame (hs : s.Inv) : (decideFrame s).Inv ∧ (decideFrame s).bufsz = s.bufsz := by
  obtain ⟨-, e⟩ | ⟨-, -, e⟩ | ⟨-, -, -, -, e⟩ | ⟨-, -, -, e⟩ := decideFrame_cases s <;> rw [e]
  · exact ⟨inv_raise hs _, rfl⟩
  · exact ⟨inv_raise hs _, rfl⟩
  · exact ⟨inv_raise hs _, rfl⟩
  · exact ⟨inv_ok (inv_setBuf_of_length_le hs (by simp)), rfl⟩

/-- Every operation, from a state that satisfies the invariants, ends in one that does, with the same `BUFSZ`. -/
theorem exec_keeps_inv (i : Instr) (hs : s.Inv) : ∃ t, exec i s = .next t ∧ t.Inv ∧ t.bufsz = s.bufsz := by
  cases i with
  | clr => exact ⟨_, rfl, inv_ok (inv_setAcc hs _), rfl⟩
  | abs imm => exact ⟨_, rfl, inv_ok (inv_setAcc hs _), rfl⟩
  | fin => exact ⟨_, rfl, inv_ok (inv_finalise hs), rfl⟩
  | csum => exact ⟨_, rfl, inv_ok (inv_latchChecksum hs _), rfl⟩
  | rstb => exact ⟨_, rfl, inv_ok (inv_setBuf_of_length_le hs (Nat.zero_le _)), rfl⟩
  | push imm =>
    obtain ⟨-, e⟩ | ⟨room, e⟩ := execPush_cases imm s
    · exact ⟨_, e, inv_raise hs _, rfl⟩
    · have hfit : Fits s.bufsz (s.buf ++ [imm]).length := by
        simpa using (fits_succ_iff _ _).mpr ⟨fits_of_inv hs, room⟩
      exact ⟨_, e, inv_ok (inv_setBuf hs hfit), rfl⟩
  | pop =>
    obtain ⟨-, e⟩ | ⟨head, rest, hbuf, e⟩ := execPop_cases s
    · exact ⟨_, e, inv_raise hs _, rfl⟩
    · exact ⟨_, e, inv_ok (inv_setBuf_of_length_le (inv_setDout hs _) (by simp [hbuf])), rfl⟩
  | enc =>
    obtain ⟨-, e⟩ | ⟨-, -, e⟩ | ⟨-, room, e⟩ := execEnc_cases s
    · exact ⟨_, e, inv_raise hs _, rfl⟩
    · exact ⟨_, e, inv_raise hs _, rfl⟩
    · have hfit := (exceeds_eq_false_iff_fits _ _).mp room
      exact ⟨_, e, inv_ok (inv_appendTrailer (inv_latchChecksum hs _) hfit), rfl⟩
  | dec =>
    obtain ⟨-, e⟩ | ⟨-, -, e⟩ | ⟨-, -, e⟩ := execDec_cases s
    · exact ⟨_, e, inv_raise hs _, rfl⟩
    · exact ⟨_, e, inv_raise hs _, rfl⟩
    · exact ⟨_, e, inv_decideFrame (inv_latchChecksum hs _)⟩
  | cfg imm =>
    obtain ⟨-, e⟩ | ⟨-, e⟩ := execCfg_cases imm s
    · exact ⟨_, e, inv_ok (inv_setSelfchk hs _), rfl⟩
    · exact ⟨_, e, inv_raise hs _, rfl⟩

/-- Every command word, the illegal ones included. -/
theorem executeWord_keeps_inv (w : CommandWord) (hs : s.Inv) :
    ∃ t, executeWord w s = .next t ∧ t.Inv ∧ t.bufsz = s.bufsz := by
  unfold executeWord
  cases decode w with
  | some i => exact exec_keeps_inv i hs
  | none => exact ⟨_, rfl, inv_raise hs _, rfl⟩

/-- Every step, whatever the host does. -/
theorem step_keeps_inv (hs : s.Inv) : ∃ t, step s = .next t ∧ t.Inv ∧ t.bufsz = s.bufsz := by
  unfold step
  cases hh : s.host with
  | nil => rw [takeEvent_of_nil hh]; exact ⟨_, rfl, hs, rfl⟩
  | cons event rest =>
    rw [takeEvent_of_cons hh]
    cases event with
    | command w => exact executeWord_keeps_inv w (inv_setHost hs rest)
    | reset => exact ⟨_, rfl, inv_setHost (inv_resetWith _) _, rfl⟩

theorem inv_of_step {t : Machine.State} (hs : s.Inv) (h : step s = .next t) : t.Inv ∧ t.bufsz = s.bufsz := by
  obtain ⟨u, hu, hkeep⟩ := step_keeps_inv hs
  cases hu.symm.trans h
  exact hkeep

theorem inv_of_reachable {size : BufSize} (h : Reachable size s) : s.Inv ∧ s.bufsz = size := by
  induction h with
  | start => exact ⟨inv_resetWith size, rfl⟩
  | issue s events _ ih => exact ⟨inv_setHost ih.1 events, ih.2⟩
  | step s t _ hstep ih =>
    obtain ⟨hinv, hsize⟩ := inv_of_step ih.1 hstep
    exact ⟨hinv, hsize.trans ih.2⟩

/-- Settles O17: reset has the invariants and every step keeps them (`step_keeps_inv`), so every reachable state has
them, by induction on how it is reached. -/
theorem invariantsHoldWhenReachableAndAreKept : Obligations.InvariantsHoldWhenReachableAndAreKept := by
  refine ⟨fun size s hs => ?_, fun s t hs h => (inv_of_step hs h).1⟩
  obtain ⟨hinv, hsize⟩ := inv_of_reachable hs
  exact ⟨fits_of_inv hinv, hinv.errAtMostEight, hinv.ckhNotReserved, hinv.cklNotReserved, hsize⟩

end Sys2Proof.Proofs
end

section
/-! SUPPORT. Runs of several operations: a checksum stream, filling the buffer, and `ENC` and `DEC` against the pure
functions of the frame codec (spec/10_state.md R26). -/

namespace Sys2Proof.Proofs

open Sys2Proof.Machine Sys2Proof.Spec

/-- A run goes on from the state in which its first operation ends. -/
theorem execAll_cons {i : Instr} {s t : Machine.State} (h : exec i s = .next t) (rest : List Instr) :
    execAll (i :: rest) s = execAll rest t := by
  simp [execAll, h]

theorem execAll_singleton {i : Instr} {s t : Machine.State} (h : exec i s = .next t) : execAll [i] s = .next t :=
  execAll_cons h []

/-- Where `ERR` is 0 already, `ok` changes nothing. -/
theorem ok_eq_self {s : Machine.State} (h : s.err = 0) : ok s = s := by
  cases s; cases h; rfl

/-- A stream of `ABS` absorbs its bytes in sequence order (R63). -/
theorem execAll_abs_append (p : List Byte) (rest : List Instr) (s : Machine.State) (herr : s.err = 0) :
    execAll (p.map .abs ++ rest) s = execAll rest (s.setAcc (absorb s.acc p)) := by
  induction p generalizing s with
  | nil => rfl
  | cons b p ih =>
    have hexec : exec (.abs b) s = .next (s.setAcc (crcByte s.acc b)) :=
      congrArg Host.Outcome.next (ok_eq_self herr)
    exact (execAll_cons hexec _).trans (ih _ herr)

/-- `CLR`, one `ABS` for each byte and `FIN` latch the checksum, as `CSUM` would. -/
theorem execAll_checksum_stream (p : List Byte) (s : Machine.State) :
    execAll (.clr :: p.map .abs ++ [.fin]) s = .next (ok (latchChecksum p s)) :=
  execAll_abs_append p [.fin] (ok (s.setAcc 0x0000)) rfl

/-- With room for all of them, pushed bytes stand in the buffer in sequence order (R71). -/
theorem execAll_push_append (p : List Byte) (rest : List Instr) (s : Machine.State) (herr : s.err = 0)
    (hfit : Fits s.bufsz (s.buf.length + p.length)) :
    execAll (p.map .push ++ rest) s = execAll rest (s.setBuf (s.buf ++ p)) := by
  induction p generalizing s with
  | nil => rw [List.append_nil]; rfl
  | cons b p ih =>
    have hroom : isFull s.bufsz s.len = false :=
      ((fits_succ_iff _ _).mp (fits_of_le hfit (by simp [State.len]))).2
    have hexec : exec (.push b) s = .next (s.setBuf (s.buf ++ [b])) := by
      simp [exec, execPush, hroom, ok_eq_self, herr]
    have hrest := ih (s.setBuf (s.buf ++ [b])) herr (fits_of_le hfit (by simp; omega))
    rw [List.map_cons, List.cons_append, execAll_cons hexec, hrest]
    simp [State.setBuf]

/-- `RSTB` and one `PUSH` for each byte of a sequence that fits leave exactly that sequence in the buffer. -/
theorem execAll_load_append {p : List Byte} (rest : List Instr) {s : Machine.State} (hfit : Fits s.bufsz p.length) :
    execAll (.rstb :: p.map .push ++ rest) s = execAll rest (ok (s.setBuf p)) :=
  execAll_push_append p rest (ok (s.setBuf [])) rfl (by simpa using hfit)

/-- `ENC` with room for the trailer leaves what `encode` gives, or its failure and the buffer as it was (R80, R83). -/
theorem exec_enc_cases {s : Machine.State} (hfit : Fits s.bufsz (s.len + 3)) : ∃ t, exec .enc s = .next t ∧
    ((∃ f, encodePayload s.buf = .ok f ∧ t.err = 0 ∧ t.buf = f) ∨
      (∃ e, encodePayload s.buf = .error e ∧ t.err = errCode (encodeFailureKind e) ∧ t.buf = s.buf)) := by
  obtain ⟨hascii, h⟩ | ⟨-, hfull, -⟩ | ⟨hascii, -, h⟩ := execEnc_cases s
  · exact ⟨_, h, .inr ⟨.invalidPayload, by simp [encodePayload, hascii], rfl, rfl⟩⟩
  · rw [(exceeds_eq_false_iff_fits _ _).mpr hfit] at hfull
    cases hfull
  · exact ⟨_, h, .inl ⟨frame s.buf, by simp [encodePayload, hascii], rfl, rfl⟩⟩

/-- What `decode` takes for its candidate is what `DEC` takes for it (R90, R94). -/
theorem take_eq_candidate (b : Buffer) : b.take (b.length - 3) = candidate b := rfl

/-- Check 2 as `decode` writes it (R90). -/
theorem endsInTerminator_eq_false_iff (b : Buffer) :
    endsInTerminator b = false ↔ b[b.length - 1]? ≠ some terminator := by
  simp [endsInTerminator, byteAt]

/-- Check 3 as `decode` writes it, on the state that holds the recomputed checksum (R90). -/
theorem checksumMatches_latchChecksum_eq_false_iff (bytes : List Byte) (s : Machine.State) :
    checksumMatches (latchChecksum bytes s) = false ↔
      some (checksum bytes).1 ≠ s.buf[s.len - 3]? ∨ some (checksum bytes).2 ≠ s.buf[s.len - 2]? := by
  simp only [checksumMatches, Bool.and_eq_false_iff, beq_eq_false_iff_ne]
  exact or_congr ne_comm ne_comm

/-- Check 5 as `decode` writes it, where check 4 has passed (R95). -/
theorem reencodesTo_candidate {s : Machine.State} (hascii : asciiOk (candidate s.buf) = true) :
    reencodesTo (candidate s.buf) s.buf = selfcheckOk (latchChecksum (candidate s.buf) s) := by
  simp [reencodesTo, encodePayload, hascii, frame, selfcheckOk]

/-- `decode` makes the checks of `DEC` (R90, R94): each of its tests is the operation's, made on the state that holds
the recomputed checksum. -/
theorem decodeFrame_eq (s : Machine.State) :
    decodeFrame s.buf s.selfchk =
      if s.len < 3 then .error .tooShort
      else if endsInTerminator s.buf = false then .error .malformedTerminator
      else if checksumMatches (latchChecksum (candidate s.buf) s) = false then .error .checksumMismatch
      else if asciiOk (candidate s.buf) = false then .error .nonAsciiPayload
      else if s.selfchk = true ∧ selfcheckOk (latchChecksum (candidate s.buf) s) = false then
        .error .internalInconsistency
      else .ok (candidate s.buf) := by
  simp only [endsInTerminator_eq_false_iff, checksumMatches_latchChecksum_eq_false_iff]
  cases hascii : asciiOk (candidate s.buf) with
  | false => simp only [decodeFrame, take_eq_candidate, hascii, State.len, if_true]
  | true =>
    simp only [decodeFrame, take_eq_candidate, hascii, State.len, reencodesTo_candidate hascii]
    -- the same tests on both sides, decided by different `Decidable` terms
    congr

/-- `DEC` leaves what `decode` gives, or its failure and the buffer as it was, in every state (R90, R94). -/
theorem exec_dec_cases (s : Machine.State) : ∃ t, exec .dec s = .next t ∧
    ((∃ q, decodeFrame s.buf s.selfchk = .ok q ∧ t.err = 0 ∧ t.buf = q) ∨
      (∃ e, decodeFrame s.buf s.selfchk = .error e ∧ t.err = errCode (decodeFailureKind e) ∧ t.buf = s.buf)) := by
  rw [decodeFrame_eq]
  obtain ⟨h1, h⟩ | ⟨h1, h2, h⟩ | ⟨h1, h2, h⟩ := execDec_cases s
  · exact ⟨_, h, .inr ⟨.tooShort, by simp [h1], rfl, rfl⟩⟩
  · exact ⟨_, h, .inr ⟨.malformedTerminator, by simp [h1, h2], rfl, rfl⟩⟩
  · rw [if_neg (Nat.not_lt.mpr h1), if_neg (ne_false_of_eq_true h2)]
    have hcases := decideFrame_cases (latchChecksum (candidate s.buf) s)
    simp only [latchChecksum_buf, latchChecksum_selfchk] at hcases
    obtain ⟨h3, e⟩ | ⟨h3, h4, e⟩ | ⟨h3, h4, hself, h5, e⟩ | ⟨h3, h4, h5, e⟩ := hcases <;> rw [e] at h
    · exact ⟨_, h, .inr ⟨.checksumMismatch, by simp [h3], rfl, rfl⟩⟩
    · exact ⟨_, h, .inr ⟨.nonAsciiPayload, by simp [h3, h4], rfl, rfl⟩⟩
    · exact ⟨_, h, .inr ⟨.internalInconsistency, by simp [h3, h4, hself, h5], rfl, rfl⟩⟩
    · exact ⟨_, h, .inl ⟨candidate s.buf, by simpa [h3, h4] using h5, rfl, rfl⟩⟩

/-- Settles O43: the checksum stream latches what `CSUM` would, and after `RSTB` and the `PUSH`es the last operation
finds exactly the sequence in the buffer. -/
theorem commandSequencesComputeTheFunctions : Obligations.CommandSequencesComputeTheFunctions := by
  refine ⟨fun s p hfit => ⟨?_, ?_⟩, fun s p hfit => ?_, fun s p hfit => ?_⟩
  · exact ⟨_, execAll_checksum_stream p s, rfl⟩
  · exact ⟨_, (execAll_load_append [.csum] hfit).trans (execAll_singleton rfl), rfl⟩
  · have hload := execAll_load_append [.enc] (fits_of_le hfit (Nat.le_add_right _ _))
    obtain ⟨t, ht, hcases⟩ := exec_enc_cases (s := ok (s.setBuf p)) hfit
    refine ⟨t, hload.trans (execAll_singleton ht), ?_⟩
    simp only [ok_buf, State.setBuf_buf] at hcases
    obtain ⟨f, hf, hdone⟩ | ⟨e, he, hdone⟩ := hcases
    · rw [hf]; exact hdone
    · rw [he]; exact hdone
  · have hload := execAll_load_append [.dec] hfit
    obtain ⟨t, ht, hcases⟩ := exec_dec_cases (ok (s.setBuf p))
    refine ⟨t, hload.trans (execAll_singleton ht), ?_⟩
    simp only [ok_buf, ok_selfchk, State.setBuf_buf, State.setBuf_selfchk] at hcases
    obtain ⟨q, hq, hdone⟩ | ⟨e, he, hdone⟩ := hcases
    · rw [hq]; exact hdone
    · rw [he]; exact hdone

end Sys2Proof.Proofs
end

section
/-! SUPPORT. The illegal words (spec/30_encoding.md R50): the fields of a word as unsigned integers, what the decoder
refuses on them, and the step on a word. -/

namespace Sys2Proof.Proofs

open Sys2Proof.Machine Sys2Proof.Spec

theorem opField_toNat (w : CommandWord) : (opField w).toNat = w.toNat / 256 := by
  simp only [opField, BitVec.extractLsb'_toNat, Nat.shiftRight_eq_div_pow]; omega

theorem immField_toNat (w : CommandWord) : (immField w).toNat = w.toNat % 256 := by
  simp [immField, BitVec.extractLsb'_toNat]

@[simp] theorem withoutImm_eq_none_iff (imm : Byte) (i : Instr) : withoutImm imm i = none ↔ imm.toNat ≠ 0 := by
  simp [withoutImm, BitVec.toNat_eq]

/-- `imm[7:1]` is not 0 (R48). -/
theorem cfgImmLegal_eq_false_iff (imm : Byte) : cfgImmLegal imm = false ↔ imm.toNat / 2 ≠ 0 := by
  simp [cfgImmLegal, BitVec.toNat_eq, BitVec.extractLsb'_toNat, Nat.shiftRight_eq_div_pow]; omega

/-- The decoder refuses exactly the illegal words: row by row of the opcode map, the row's "legal when" fails exactly
where R50 says so. -/
theorem decode_eq_none_iff (w : CommandWord) : decode w = none ↔ IllegalWord w.toNat := by
  simp only [IllegalWord, ← opField_toNat, ← immField_toNat, decode]
  split
  case h_11 =>
    have hreserved : 0xA ≤ (opField w).toNat := by grind
    exact iff_of_true rfl (.inl hreserved)
  all_goals simp [*, cfgImmLegal_eq_false_iff]

/-- The step that takes a word from the host is the step on that word (R20). -/
theorem step_of_command {s : Machine.State} {w : CommandWord} {rest : List HostEvent}
    (h : s.host = .command w :: rest) : step s = executeWord w (s.setHost rest) := by
  simp [step, takeEvent_of_cons h]

theorem executeWord_of_illegal {w : CommandWord} (h : IllegalWord w.toNat) (s : Machine.State) :
    executeWord w s = .next (illegalWord s) := by
  simp [executeWord, (decode_eq_none_iff w).mpr h]

/-- Settles O10: the decoder refuses the word (`decode_eq_none_iff`), and the meaning of a refused word writes `ERR`
alone, whether the word is given or taken from the host. -/
theorem illegalWordSetsErrAndNothingElse : Obligations.IllegalWordSetsErrAndNothingElse := by
  intro s w hw
  refine ⟨executeWord_of_illegal hw s, fun rest hhost => ?_⟩
  exact (step_of_command hhost).trans (executeWord_of_illegal hw (s.setHost rest))

end Sys2Proof.Proofs
end

section
/-! SUPPORT. The checksum engine (spec/40_checksum_engine.md R55 to R67): its pure functions on unsigned integers, what a
step lets one recover of its inputs, and the results of the four operations. -/

namespace Sys2Proof.Proofs

open Sys2Proof.Machine Sys2Proof.Spec

/-! ### The parts of a byte and of the accumulator as unsigned integers (spec/00_scope.md R6) -/

theorem highNibble_toNat (b : Byte) : (highNibble b).toNat = b.toNat >>> 4 := by
  simp only [highNibble, BitVec.extractLsb'_toNat, Nat.shiftRight_eq_div_pow]; omega

theorem lowNibble_toNat (b : Byte) : (lowNibble b).toNat = b.toNat % 16 := by
  simp [lowNibble, BitVec.extractLsb'_toNat]

theorem highByte_toNat (v : Word16) : (highByte v).toNat = v.toNat / 256 := by
  simp only [highByte, BitVec.extractLsb'_toNat, Nat.shiftRight_eq_div_pow]; omega

theorem lowByte_toNat (v : Word16) : (lowByte v).toNat = v.toNat % 256 := by
  simp [lowByte, BitVec.extractLsb'_toNat]

/-- A byte is its two nibbles. -/
theorem byte_eq_of_nibbles {b b' : Byte} (hhigh : highNibble b = highNibble b') (hlow : lowNibble b = lowNibble b') :
    b = b' := by
  have h := congrArg BitVec.toNat hhigh
  have l := congrArg BitVec.toNat hlow
  simp only [highNibble_toNat, lowNibble_toNat, Nat.shiftRight_eq_div_pow] at h l
  exact BitVec.eq_of_toNat_eq (by omega)

/-- The accumulator is its top nibble and the rest. -/
theorem word16_eq_of_parts {a a' : Word16} (htop : a.extractLsb' 12 4 = a'.extractLsb' 12 4)
    (hrest : a.extractLsb' 0 12 = a'.extractLsb' 0 12) : a = a' := by
  have t := congrArg BitVec.toNat htop
  have r := congrArg BitVec.toNat hrest
  simp only [BitVec.extractLsb'_toNat, Nat.shiftRight_eq_div_pow] at t r
  exact BitVec.eq_of_toNat_eq (by omega)

theorem highNibble_xor (b b' : Byte) : highNibble (b ^^^ b') = highNibble b ^^^ highNibble b' :=
  BitVec.extractLsb'_xor

theorem lowNibble_xor (b b' : Byte) : lowNibble (b ^^^ b') = lowNibble b ^^^ lowNibble b' :=
  BitVec.extractLsb'_xor

/-! ### The functions as their rules write them (R55 to R60) -/

/-- The closed form of the table (R55). -/
theorem tableEntry_toNat : ∀ i : Nibble, (tableEntry i).toNat = tableValue i.toNat := by decide

theorem crcNibble_toNat (acc : Word16) (n : Nibble) : (crcNibble acc n).toNat = nibbleStep acc.toNat n.toNat := by
  have mask4 (x : Nat) : x &&& 0xF = x % 2 ^ 4 := Nat.and_two_pow_sub_one_eq_mod x 4
  have mask8 (x : Nat) : x &&& 0xFF = x % 2 ^ 8 := Nat.and_two_pow_sub_one_eq_mod x 8
  have mask16 (x : Nat) : x &&& 0xFFFF = x % 2 ^ 16 := Nat.and_two_pow_sub_one_eq_mod x 16
  have hn : n.toNat % 2 ^ 8 = n.toNat := by omega
  simp only [crcNibble, nibbleStep, tableEntry_toNat, mask4, mask8, mask16, BitVec.toNat_xor, BitVec.toNat_shiftLeft,
    BitVec.toNat_setWidth, BitVec.toNat_ushiftRight, hn]

theorem crcByte_toNat (acc : Word16) (b : Byte) : (crcByte acc b).toNat = byteStep acc.toNat b.toNat := by
  simp only [crcByte, byteStep, crcNibble_toNat, highNibble_toNat, lowNibble_toNat]

theorem crcRaw_concat (p : List Byte) (b : Byte) : crcRaw (p ++ [b]) = crcByte (crcRaw p) b :=
  absorb_append _ p [b]

theorem adj_toNat (x : Byte) : (adj x).toNat = adjusted x.toNat := by
  simp only [adj, adjusted, BitVec.toNat_eq, apply_ite BitVec.toNat, BitVec.toNat_add]
  rfl

theorem adj_adj (x : Byte) : adj (adj x) = adj x := adj_eq_self (adj_not_reserved x)

theorem adj_highByte_toNat (v : Word16) : (adj (highByte v)).toNat = adjusted (v.toNat / 256) := by
  rw [adj_toNat, highByte_toNat]

theorem adj_lowByte_toNat (v : Word16) : (adj (lowByte v)).toNat = adjusted (v.toNat % 256) := by
  rw [adj_toNat, lowByte_toNat]

theorem isChecksum_checksum (p : List Byte) : IsChecksum p (checksum p).1 (checksum p).2 :=
  ⟨adj_highByte_toNat _, adj_lowByte_toNat _⟩

/-! ### What a step lets one recover of its inputs (R67) -/

/-- The low nibble after a step is the table index that the step used: the shift leaves no bit there, and a table entry
ends in its own index. -/
theorem crcNibble_extractLsb'_zero (acc : Word16) (n : Nibble) :
    (crcNibble acc n).extractLsb' 0 4 = acc.extractLsb' 12 4 ^^^ n := by
  have hshift : (acc <<< 4).extractLsb' 0 4 = 0#4 := by ext i hi; simp; omega
  rw [crcNibble_eq, BitVec.extractLsb'_xor, hshift, tableEntry_lowNibble, BitVec.zero_xor]

/-- The outcome of a step determines its table index, and so everything of the accumulator but the top nibble, which
the shift drops. -/
theorem of_crcNibble_eq {a a' : Word16} {n n' : Nibble} (h : crcNibble a n = crcNibble a' n') :
    a.extractLsb' 12 4 ^^^ n = a'.extractLsb' 12 4 ^^^ n' ∧ a.extractLsb' 0 12 = a'.extractLsb' 0 12 := by
  have hindex : a.extractLsb' 12 4 ^^^ n = a'.extractLsb' 12 4 ^^^ n' := by
    rw [← crcNibble_extractLsb'_zero, h, crcNibble_extractLsb'_zero]
  have hshift : a <<< 4 = a' <<< 4 := by
    rw [crcNibble_eq, crcNibble_eq, hindex] at h
    exact (BitVec.xor_left_inj _).mp h
  refine ⟨hindex, BitVec.eq_of_toNat_eq ?_⟩
  have hnat := congrArg BitVec.toNat hshift
  simp only [BitVec.toNat_shiftLeft, Nat.shiftLeft_eq] at hnat
  simp only [BitVec.extractLsb'_toNat, Nat.shiftRight_zero]
  omega

theorem crcNibble_injective_acc (n : Nibble) : Function.Injective fun acc => crcNibble acc n := by
  intro a a' h
  obtain ⟨hindex, hrest⟩ := of_crcNibble_eq h
  exact word16_eq_of_parts ((BitVec.xor_left_inj _).mp hindex) hrest

theorem crcNibble_injective_nibble (acc : Word16) : Function.Injective fun n => crcNibble acc n := by
  intro n n' h
  exact (BitVec.xor_right_inj _).mp (of_crcNibble_eq h).1

/-- The accumulator takes finitely many values, so an injective step is a bijection (R67 point 1). -/
theorem crcNibble_bijective (n : Nibble) : Function.Bijective fun acc => crcNibble acc n :=
  (crcNibble_injective_acc n).bijective_of_finite

theorem crcByte_bijective (b : Byte) : Function.Bijective fun acc => crcByte acc b :=
  (crcNibble_bijective (lowNibble b)).comp (crcNibble_bijective (highNibble b))

/-- The accumulator between the two nibble steps still shows the first step's index in its low nibble, which the second
step keeps: so the high nibbles agree, and then the low ones (R67 point 2). -/
theorem crcByte_injective_byte (acc : Word16) : Function.Injective fun b => crcByte acc b := by
  intro b b' h
  obtain ⟨-, hrest⟩ := of_crcNibble_eq h
  have hindex := congrArg (BitVec.extractLsb' 0 4) hrest
  simp only [BitVec.extractLsb'_extractLsb'_of_le (show 0 + 4 ≤ 12 by decide), crcNibble_extractLsb'_zero] at hindex
  have hhigh : highNibble b = highNibble b' := (BitVec.xor_right_inj _).mp hindex
  refine byte_eq_of_nibbles hhigh (crcNibble_injective_nibble (crcNibble acc (highNibble b)) ?_)
  simpa only [crcByte, hhigh] using h

theorem absorb_injective (bytes : List Byte) : Function.Injective fun acc => absorb acc bytes := by
  induction bytes with
  | nil => exact Function.injective_id
  | cons b bytes ih => exact ih.comp (crcByte_bijective b).injective

/-- One changed byte changes the accumulator (point 2), and the bytes after it keep the difference (point 1). -/
theorem crcRaw_ne_of_differInOneByte {p q : List Byte} (h : DifferInOneByte p q) : crcRaw p ≠ crcRaw q := by
  obtain ⟨front, back, x, y, hxy, rfl, rfl⟩ := h
  intro hraw
  simp only [crcRaw, absorb_append, absorb_cons] at hraw
  exact hxy (crcByte_injective_byte _ (absorb_injective back hraw))

theorem crcByte_xor (a a' : Word16) (b b' : Byte) :
    crcByte (a ^^^ a') (b ^^^ b') = crcByte a b ^^^ crcByte a' b' := by
  simp only [crcByte, highNibble_xor, lowNibble_xor, crcNibble_xor]

/-! ### The obligations -/

/-- Settles O18: the literals are the definition, and the closed form is `tableEntry_toNat`. -/
theorem tableHasTheSixteenEntries : Obligations.TableHasTheSixteenEntries :=
  ⟨rfl, tableEntry_toNat⟩

/-- Settles O19: each part of the rules' formulas is the value of the same part of the model's. -/
theorem byteStepIsTwoNibbleSteps : Obligations.ByteStepIsTwoNibbleSteps :=
  ⟨crcNibble_toNat, crcByte_toNat⟩

/-- Settles O20: absorbing distributes over concatenation, and the checksum's two bytes are adjusted as R60 says. -/
theorem checksumAbsorbsInSequenceOrder : Obligations.ChecksumAbsorbsInSequenceOrder :=
  ⟨crcRaw_nil, crcRaw_concat, isChecksum_checksum⟩

/-- Settles O22: an adjusted byte is not reserved, so it is not adjusted again. -/
theorem adjustmentOfReservedBytes : Obligations.AdjustmentOfReservedBytes :=
  ⟨adj_toNat, adj_not_reserved, adj_adj, rfl, rfl, rfl⟩

/-- Settles O24: a step's outcome determines its table index and the rest of the accumulator (`of_crcNibble_eq`), which
gives points 1 to 3; point 4 is the linearity of the nibble step, twice. -/
theorem crcStepStructure : Obligations.CrcStepStructure :=
  ⟨crcNibble_bijective, crcByte_bijective, crcNibble_injective_nibble, crcByte_injective_byte,
    fun _ _ => crcRaw_ne_of_differInOneByte, fun a a' b b' => (crcByte_xor a a' b b').symm⟩

/-- Settles O25: `CLR` ends in `ok` of the state with `ACC` written, which is the stated state. -/
theorem clrClearsTheAccumulator : Obligations.ClrClearsTheAccumulator :=
  fun _ => rfl

/-- Settles O26: the new `ACC` is the byte step of the old one. -/
theorem absAbsorbsOneByte : Obligations.AbsAbsorbsOneByte :=
  fun s b => ⟨crcByte s.acc b, crcByte_toNat s.acc b, rfl⟩

/-- Settles O27: the two bytes are `adj` of the two bytes of `ACC`. -/
theorem finLatchesTheAdjustedBytes : Obligations.FinLatchesTheAdjustedBytes :=
  fun s => ⟨adj (highByte s.acc), adj (lowByte s.acc), adj_highByte_toNat s.acc, adj_lowByte_toNat s.acc, rfl⟩

/-- Settles O28: `CSUM` latches the checksum of the buffer, and so does the stream (`execAll_checksum_stream`). -/
theorem csumIsTheStreamOfTheBuffer : Obligations.CsumIsTheStreamOfTheBuffer :=
  ⟨fun s => ⟨_, _, isChecksum_checksum s.buf, rfl⟩, fun s => (execAll_checksum_stream s.buf s).symm⟩

end Sys2Proof.Proofs
end

section
/-! SUPPORT. The buffer and configuration operations (spec/41_buffer_and_config.md R70 to R73): what `RSTB` and `POP`
answer. -/

namespace Sys2Proof.Proofs

open Sys2Proof.Machine

/-- `POP` in every state (R72): an empty buffer has no head to deliver and no tail to lose, and alone reports a failure. -/
theorem exec_pop (s : Machine.State) :
    exec .pop s = .next { s with dout := s.buf.headD s.dout, buf := s.buf.tail,
                                 err := if s.buf = [] then 3 else 0 } := by
  obtain ⟨hbuf, e⟩ | ⟨head, rest, hbuf, e⟩ := execPop_cases s
  · have hnext : raise .empty s = { s with err := 3 } := rfl
    simp [exec, e, hnext, hbuf]
  · have hnext : ok ((s.setDout head).setBuf rest) = { s with dout := head, buf := rest, err := 0 } := rfl
    simp [exec, e, hnext, hbuf]

theorem exec_pop_of_nil {s : Machine.State} (hbuf : s.buf = []) : exec .pop s = .next { s with err := 3 } := by
  simp [exec_pop, hbuf]

theorem exec_pop_of_cons {s : Machine.State} {head : Byte} {rest : List Byte} (hbuf : s.buf = head :: rest) :
    exec .pop s = .next { s with dout := head, buf := rest, err := 0 } := by
  simp [exec_pop, hbuf]

/-- Settles O29: `RSTB` ends in `ok` of the state with `BUF` written empty, which is the stated state. -/
theorem rstbEmptiesTheBuffer : Obligations.RstbEmptiesTheBuffer :=
  fun _ => rfl

/-- Settles O31: its two cases are `POP`'s equation where the buffer has a head and where it has none. -/
theorem popDeliversTheHead : Obligations.PopDeliversTheHead :=
  ⟨fun _ _ _ => exec_pop_of_cons, fun _ => exec_pop_of_nil⟩

/-- Settles O54: the statement is `POP`'s equation in every state. -/
theorem popCompletesInEveryState : Obligations.PopCompletesInEveryState :=
  exec_pop

end Sys2Proof.Proofs
end

section
/-! SUPPORT. The frame encoder (spec/42_frame_encoder.md R80 to R85): what `encode` gives, what a frame looks like, and
the three ways in which `ENC` can end. -/

namespace Sys2Proof.Proofs

open Sys2Proof.Machine Sys2Proof.Spec

/-! ### The function `encode` (R80) -/

theorem asciiOk_iff_sevenBit (p : List Byte) : asciiOk p = true ↔ SevenBit p := asciiOk_iff p

/-- `encode` gives a frame of every 7-bit payload, and nothing else. -/
theorem encodePayload_eq_ok_iff {p f : List Byte} : encodePayload p = .ok f ↔ SevenBit p ∧ frame p = f := by
  rw [← asciiOk_iff_sevenBit]
  cases h : asciiOk p <;> simp [encodePayload, h]

theorem checksum_fst_not_reserved (p : List Byte) : (checksum p).1 ∉ reserved := adj_not_reserved _

theorem checksum_snd_not_reserved (p : List Byte) : (checksum p).2 ∉ reserved := adj_not_reserved _

/-- A byte that is not reserved is no terminator. -/
theorem ne_terminator_of_not_reserved {x : Byte} (h : x ∉ reserved) : x ≠ terminator :=
  fun e => h (e ▸ by decide)

/-- The checksum bytes add no terminator to those of the payload (R85 point 3). -/
theorem count_terminator_frame (p : List Byte) : (frame p).count terminator = p.count terminator + 1 := by
  simp [frame, ne_terminator_of_not_reserved (checksum_fst_not_reserved p),
    ne_terminator_of_not_reserved (checksum_snd_not_reserved p)]

/-- The payload is the frame without its last three bytes (R85 point 4). -/
theorem frame_injective : Function.Injective frame :=
  Function.LeftInverse.injective (g := candidate) fun p => candidate_append p _ _ _

/-! ### The operation `ENC` (R83) -/

theorem exec_enc_of_fits {s : Machine.State} (hascii : SevenBit s.buf) (hfit : Fits s.bufsz (s.buf.length + 3)) :
    exec .enc s = .next (ok (appendTrailer (latchChecksum s.buf s))) := by
  have hroom : exceeds s.bufsz (s.len + 3) = false := (exceeds_eq_false_iff_fits _ _).mpr hfit
  simp [exec, execEnc, (asciiOk_iff_sevenBit _).mpr hascii, hroom]

/-- Check 1 fails whatever the room is (R83). -/
theorem exec_enc_of_nonascii {s : Machine.State} {b : Byte} (hmem : b ∈ s.buf) (hb : 0x80 ≤ b.toNat) :
    exec .enc s = .next (raise .nonascii s) := by
  have hascii : asciiOk s.buf = false := (asciiOk_eq_false_iff _).mpr ⟨b, hmem, hb⟩
  simp [exec, execEnc, hascii]

theorem exec_enc_of_not_fits {s : Machine.State} (hascii : SevenBit s.buf)
    (hfit : ¬ Fits s.bufsz (s.buf.length + 3)) : exec .enc s = .next (raise .overflow s) := by
  have hfull : exceeds s.bufsz (s.len + 3) = true := by
    rwa [← exceeds_eq_false_iff_fits, Bool.not_eq_false] at hfit
  simp [exec, execEnc, (asciiOk_iff_sevenBit _).mpr hascii, hfull]

/-- What `ENC` leaves in `BUF` and `ERR`, as a function of the buffer and its capacity (R85 point 5). -/
theorem buf_err_of_exec_enc {s t : Machine.State} (h : exec .enc s = .next t) :
    (t.buf, t.err) =
      if asciiOk s.buf = false then (s.buf, 4)
      else if exceeds s.bufsz (s.len + 3) then (s.buf, 2)
      else (frame s.buf, 0) := by
  obtain ⟨hascii, e⟩ | ⟨hascii, hfull, e⟩ | ⟨hascii, hroom, e⟩ := execEnc_cases s <;> cases e.symm.trans h
  · rw [if_pos hascii]; rfl
  · rw [if_neg (ne_false_of_eq_true hascii), if_pos hfull]; rfl
  · rw [if_neg (ne_false_of_eq_true hascii), if_neg (ne_true_of_eq_false hroom)]; rfl

/-! ### The obligations -/

/-- Settles O34: one clause for each way in which `ENC` can end. -/
theorem encEncodesInPlace : Obligations.EncEncodesInPlace := by
  refine ⟨fun s hascii hfit => ?_, fun s b hmem hb => exec_enc_of_nonascii hmem hb, fun s cap h hascii hsize hcap => ?_⟩
  · exact ⟨_, _, isChecksum_checksum s.buf, exec_enc_of_fits hascii hfit⟩
  · exact exec_enc_of_not_fits hascii (by simp [hsize]; omega)

/-- Settles O35: `encode` gives `frame p` of a 7-bit `p` alone, so points 1 to 4 are facts of `frame`; point 5 is
`buf_err_of_exec_enc` for both states. -/
theorem encodedFrameFacts : Obligations.EncodedFrameFacts := by
  simp only [Obligations.EncodedFrameFacts, encodePayload_eq_ok_iff]
  refine ⟨fun p => by simp, ?_, ?_, ?_, ?_⟩
  · rintro p f ⟨-, rfl⟩
    exact ⟨_, _, isChecksum_checksum p, rfl, checksum_fst_not_reserved p, checksum_snd_not_reserved p⟩
  · rintro p f ⟨-, rfl⟩ hp
    have hpayload : p.count terminator = 0 := List.count_eq_zero.mpr hp
    exact (count_terminator_frame p).trans (by rw [hpayload])
  · rintro p q f ⟨-, hp⟩ ⟨-, hq⟩
    exact frame_injective (hp.trans hq.symm)
  · intro s s' t t' hbuf hsize ht ht'
    have hlen : s.len = s'.len := congrArg List.length hbuf
    have hresult : (t.buf, t.err) = (t'.buf, t'.err) := by
      rw [buf_err_of_exec_enc ht, buf_err_of_exec_enc ht', hbuf, hsize, hlen]
    exact Prod.mk.inj hresult

end Sys2Proof.Proofs
end

section
/-! SUPPORT. The frame decoder (spec/43_frame_decoder.md R90 to R98): what its checks ask of a buffer written as
candidate and trailer, why check 5 cannot fail, and `DEC` without it. -/

namespace Sys2Proof.Proofs

open Sys2Proof.Machine Sys2Proof.Spec

/-! ### The checks, on a buffer written from its tail (R94) -/

/-- The spec's checksum pair is the value of `checksum` (R59). -/
theorem isChecksum_iff {p : List Byte} {high low : Byte} :
    IsChecksum p high low ↔ (high, low) = checksum p := by
  obtain ⟨hhigh, hlow⟩ := isChecksum_checksum p
  rw [IsChecksum, ← hhigh, ← hlow, ← BitVec.toNat_eq, ← BitVec.toNat_eq, ← Prod.mk_inj]

theorem endsInTerminator_concat (front : Buffer) (last : Byte) :
    endsInTerminator (front ++ [last]) = (last == terminator) := by
  simp [endsInTerminator, byteAt]

theorem endsInTerminator_trailer (cand : Buffer) (high low last : Byte) :
    endsInTerminator (cand ++ [high, low, last]) = (last == terminator) := by
  simpa using endsInTerminator_concat (cand ++ [high, low]) last

theorem checksumMatches_iff_of_trailer {s : Machine.State} {cand : Buffer} {high low last : Byte}
    (hbuf : s.buf = cand ++ [high, low, last]) : checksumMatches s = true ↔ (s.ckh, s.ckl) = (high, low) := by
  simp [checksumMatches, byteAt, State.len, hbuf, eq_comm (a := high), eq_comm (a := low)]

theorem frame_eq_trailer_iff {cand : Buffer} {high low last : Byte} :
    frame cand = cand ++ [high, low, last] ↔ last = terminator ∧ checksum cand = (high, low) := by
  simp only [frame, List.append_right_inj, List.cons.injEq, and_true, Prod.ext_iff, eq_comm (a := terminator)]
  exact and_rotate.symm

/-- Checks 1 to 3 pass exactly where the buffer is the frame of its candidate (R96). -/
theorem checks_pass_iff_eq_frame (s : Machine.State) :
    3 ≤ s.len ∧ endsInTerminator s.buf = true ∧ checksumMatches (latchChecksum (candidate s.buf) s) = true ↔
      frame (candidate s.buf) = s.buf := by
  by_cases hlen : 3 ≤ s.len
  · obtain ⟨high, low, last, hbuf⟩ := exists_trailer hlen
    generalize candidate s.buf = cand at hbuf ⊢
    have hsum : checksumMatches (latchChecksum cand s) = true ↔ checksum cand = (high, low) :=
      checksumMatches_iff_of_trailer hbuf
    simp [hsum, hbuf, endsInTerminator_trailer, frame_eq_trailer_iff, State.len]
  · have hframe : frame (candidate s.buf) ≠ s.buf := fun e =>
      hlen (by rw [State.len, ← e]; simp [frame])
    simp [hlen, hframe]

/-- Check 5 asks what checks 1 to 3 have found (R95, R96). -/
theorem selfcheckOk_latchChecksum_iff (s : Machine.State) :
    selfcheckOk (latchChecksum (candidate s.buf) s) = true ↔ frame (candidate s.buf) = s.buf :=
  beq_iff_eq

/-! ### `DEC` without check 5 -/

/-- `DEC` with its checks 1 to 4 alone (R94). -/
def decWithoutSelfCheck (s : Machine.State) : Machine.State :=
  let latched := latchChecksum (candidate s.buf) s
  if s.len < 3 then raise .short s
  else if endsInTerminator s.buf = false then raise .term s
  else if checksumMatches latched = false then raise .cksum latched
  else if asciiOk (candidate s.buf) = false then raise .nonascii latched
  else ok (latched.setBuf (candidate s.buf))

/-- `DEC` does what its checks 1 to 4 say, since check 5 is made only where it passes (R96). -/
theorem exec_dec_eq (s : Machine.State) : exec .dec s = .next (decWithoutSelfCheck s) := by
  obtain ⟨hlen, e⟩ | ⟨hlen, hterm, e⟩ | ⟨hlen, hterm, e⟩ := execDec_cases s <;>
    refine (show exec .dec s = _ from e).trans (congrArg _ ?_)
  · simp [decWithoutSelfCheck, hlen]
  · simp [decWithoutSelfCheck, Nat.not_lt.mpr hlen, hterm]
  · have hself : checksumMatches (latchChecksum (candidate s.buf) s) = true →
        selfcheckOk (latchChecksum (candidate s.buf) s) = true := fun hsum =>
      (selfcheckOk_latchChecksum_iff s).mpr ((checks_pass_iff_eq_frame s).mp ⟨hlen, hterm, hsum⟩)
    cases hsum : checksumMatches (latchChecksum (candidate s.buf) s) with
    | false => simp [decWithoutSelfCheck, decideFrame, Nat.not_lt.mpr hlen, hterm, hsum]
    | true => simp [decWithoutSelfCheck, decideFrame, Nat.not_lt.mpr hlen, hterm, hsum, hself hsum]

/-- None of checks 1 to 4 reads `SELFCHK`. -/
theorem decWithoutSelfCheck_setSelfchk (s : Machine.State) (b : Bool) :
    decWithoutSelfCheck (s.setSelfchk b) = (decWithoutSelfCheck s).setSelfchk b := by
  simp only [decWithoutSelfCheck, apply_ite (State.setSelfchk · b)]
  rfl

theorem decWithoutSelfCheck_err_ne_internal (s : Machine.State) :
    (decWithoutSelfCheck s).err ≠ errCode .internal := by
  simp only [decWithoutSelfCheck]
  split_ifs <;> simp [errCode]

/-- On a terminated buffer check 3 compares the pair before the terminator with the checksum of the candidate. -/
theorem decWithoutSelfCheck_of_terminated {s : Machine.State} {cand : Buffer} {high low : Byte}
    (hbuf : s.buf = cand ++ [high, low, terminator]) :
    decWithoutSelfCheck s =
      if checksum cand ≠ (high, low) then raise .cksum (latchChecksum cand s)
      else if asciiOk cand = false then raise .nonascii (latchChecksum cand s)
      else ok ((latchChecksum cand s).setBuf cand) := by
  have hcand : candidate s.buf = cand := by rw [hbuf, candidate_append]
  have hlen : ¬ s.len < 3 := by simp [State.len, hbuf]
  have hterm : endsInTerminator s.buf = true := by simp [hbuf, endsInTerminator_trailer]
  have hsum : checksumMatches (latchChecksum cand s) = false ↔ checksum cand ≠ (high, low) := by
    rw [← Bool.not_eq_true]
    exact not_congr (checksumMatches_iff_of_trailer hbuf)
  simp only [decWithoutSelfCheck, hcand, hlen, hterm, hsum, if_false, Bool.true_eq_false]

theorem exec_dec_of_mismatch {s : Machine.State} {cand : Buffer} {high low : Byte}
    (hbuf : s.buf = cand ++ [high, low, terminator]) (hsum : checksum cand ≠ (high, low)) :
    exec .dec s = .next (raise .cksum (latchChecksum cand s)) := by
  rw [exec_dec_eq, decWithoutSelfCheck_of_terminated hbuf, if_pos hsum]

/-- A frame is stripped to its payload, for either `SELFCHK`. -/
theorem exec_dec_of_frame {s : Machine.State} {cand : Buffer} (hbuf : s.buf = frame cand) (hascii : SevenBit cand) :
    exec .dec s = .next (ok ((latchChecksum cand s).setBuf cand)) := by
  have hascii' : asciiOk cand ≠ false := ne_false_of_eq_true ((asciiOk_iff_sevenBit cand).mpr hascii)
  rw [exec_dec_eq, decWithoutSelfCheck_of_terminated hbuf, if_neg (not_not.mpr rfl), if_neg hascii']

theorem exec_dec_of_nonascii {s : Machine.State} {cand : Buffer} {b : Byte} (hbuf : s.buf = frame cand)
    (hmem : b ∈ cand) (hb : 0x80 ≤ b.toNat) :
    exec .dec s = .next (raise .nonascii (latchChecksum cand s)) := by
  have hascii : asciiOk cand = false := (asciiOk_eq_false_iff cand).mpr ⟨b, hmem, hb⟩
  rw [exec_dec_eq, decWithoutSelfCheck_of_terminated hbuf, if_neg (not_not.mpr rfl), if_pos hascii]

/-! ### The function `decode` (R90) -/

/-- The frames of 7-bit payloads are what `decode` accepts, and it gives their payloads (R98). -/
theorem decodeFrame_eq_ok_iff (s : Machine.State) (p : List Byte) :
    decodeFrame s.buf s.selfchk = .ok p ↔ SevenBit p ∧ frame p = s.buf := by
  rw [decodeFrame_eq]
  constructor
  · intro h
    split_ifs at h with hlen hterm hsum hascii hself
    cases h
    simp only [Bool.not_eq_false] at hterm hsum hascii
    exact ⟨(asciiOk_iff_sevenBit _).mp hascii,
      (checks_pass_iff_eq_frame s).mp ⟨Nat.le_of_not_lt hlen, hterm, hsum⟩⟩
  · rintro ⟨hascii, hframe⟩
    have hcand : candidate s.buf = p := by rw [← hframe]; exact candidate_append p _ _ _
    subst hcand
    obtain ⟨hlen, hterm, hsum⟩ := (checks_pass_iff_eq_frame s).mpr hframe
    have hself := (selfcheckOk_latchChecksum_iff s).mpr hframe
    simp [Nat.not_lt.mpr hlen, hterm, hsum, (asciiOk_iff_sevenBit _).mpr hascii, hself]

/-! ### The obligations -/

/-- Settles O37: one clause for each way in which `DEC` can end; check 5 is none of them (`exec_dec_eq`). -/
theorem decDecodesInPlace : Obligations.DecDecodesInPlace := by
  refine ⟨?_, ?_, ?_, ?_, ?_⟩
  · intro s hlen
    rw [exec_dec_eq, decWithoutSelfCheck, if_pos (show s.len < 3 from hlen)]
    rfl
  · intro s front last hbuf hfront hlast
    have hlen : ¬ s.len < 3 := by simp [State.len, hbuf]; omega
    have hterm : endsInTerminator s.buf = false := by
      rw [hbuf, endsInTerminator_concat]
      exact beq_false_of_ne hlast
    rw [exec_dec_eq, decWithoutSelfCheck, if_neg hlen, if_pos hterm]
    rfl
  · intro s cand high low rh rl hbuf hck hne
    have hsum : checksum cand ≠ (rh, rl) := by
      rw [← isChecksum_iff.mp hck, Ne, Prod.mk_inj, not_and_or]
      exact hne
    cases isChecksum_iff.mp hck
    exact exec_dec_of_mismatch hbuf hsum
  · intro s cand high low b hbuf hck hmem hb
    cases isChecksum_iff.mp hck
    exact exec_dec_of_nonascii hbuf hmem hb
  · intro s cand high low hbuf hck hascii
    cases isChecksum_iff.mp hck
    exact exec_dec_of_frame hbuf hascii

/-- Settles O38: `DEC` is its checks 1 to 4, of which none reports `ERR_INTERNAL` and none reads `SELFCHK`. -/
theorem selfCheckNeverFires : Obligations.SelfCheckNeverFires := by
  refine ⟨fun s t h => ?_, fun s t b h => ?_⟩ <;> cases (exec_dec_eq s).symm.trans h
  · exact decWithoutSelfCheck_err_ne_internal s
  · exact (exec_dec_eq (s.setSelfchk b)).trans (congrArg _ (decWithoutSelfCheck_setSelfchk s b))

/-- Settles O40: the `PUSH`es load the payload, `ENC` makes its frame of it and `DEC` strips the frame; and `decode`
accepts exactly the frames of 7-bit payloads, as `encode` produces them. -/
theorem encodeThenDecodeGivesThePayloadBack : Obligations.EncodeThenDecodeGivesThePayloadBack := by
  refine ⟨fun s p hascii hfit => ?_, fun raw p selfchk => ?_⟩
  · have hload := execAll_load_append [.enc, .dec] (fits_of_le hfit (Nat.le_add_right _ _))
    have henc := exec_enc_of_fits (s := ok (s.setBuf p)) hascii hfit
    have hdec := exec_dec_of_frame (s := ok (appendTrailer (latchChecksum p (ok (s.setBuf p))))) rfl hascii
    refine ⟨_, hload.trans ((execAll_cons henc _).trans (execAll_singleton hdec)), ?_⟩
    exact ⟨rfl, rfl, rfl, isChecksum_checksum p, rfl, rfl⟩
  · rw [encodePayload_eq_ok_iff]
    exact decodeFrame_eq_ok_iff { State.reset with buf := raw, selfchk := selfchk } p

end Sys2Proof.Proofs
end

section
/-! SUPPORT. Failures (spec/60_exceptions.md R106): in which state an operation that reports a failure ends. -/

namespace Sys2Proof.Proofs

open Sys2Proof.Machine Sys2Proof.Spec

variable {s t : Machine.State}

/-- An operation other than `DEC` makes its checks before it writes anything, so a failure writes `ERR` alone. -/
theorem exec_succeeds_or_raises {i : Instr} (hi : i ≠ .dec) (s : Machine.State) :
    ∃ t, exec i s = .next t ∧ (t.err = 0 ∨ ∃ e, t = raise e s) := by
  cases i with
  | clr | abs _ | fin | csum | rstb => exact ⟨_, rfl, .inl rfl⟩
  | push imm =>
    obtain ⟨-, h⟩ | ⟨-, h⟩ := execPush_cases imm s
    · exact ⟨_, h, .inr ⟨_, rfl⟩⟩
    · exact ⟨_, h, .inl rfl⟩
  | pop =>
    obtain ⟨-, h⟩ | ⟨head, rest, -, h⟩ := execPop_cases s
    · exact ⟨_, h, .inr ⟨_, rfl⟩⟩
    · exact ⟨_, h, .inl rfl⟩
  | enc =>
    obtain ⟨-, h⟩ | ⟨-, -, h⟩ | ⟨-, -, h⟩ := execEnc_cases s
    · exact ⟨_, h, .inr ⟨_, rfl⟩⟩
    · exact ⟨_, h, .inr ⟨_, rfl⟩⟩
    · exact ⟨_, h, .inl rfl⟩
  | dec => exact absurd rfl hi
  | cfg imm =>
    obtain ⟨-, h⟩ | ⟨-, h⟩ := execCfg_cases imm s
    · exact ⟨_, h, .inl rfl⟩
    · exact ⟨_, h, .inr ⟨_, rfl⟩⟩

/-- Checks 1 and 2 of `DEC` fail before the checksum is recomputed, checks 3 and 4 after it (R94). -/
theorem decWithoutSelfCheck_cases (s : Machine.State) :
    (decWithoutSelfCheck s).err = 0 ∨
    (∃ e, (e = .short ∨ e = .term) ∧ decWithoutSelfCheck s = raise e s) ∨
    (∃ e, (e = .cksum ∨ e = .nonascii) ∧
      decWithoutSelfCheck s = raise e (latchChecksum (candidate s.buf) s)) := by
  rw [decWithoutSelfCheck]
  split_ifs
  · exact .inr (.inl ⟨_, .inl rfl, rfl⟩)
  · exact .inr (.inl ⟨_, .inr rfl, rfl⟩)
  · exact .inr (.inr ⟨_, .inl rfl, rfl⟩)
  · exact .inr (.inr ⟨_, .inr rfl, rfl⟩)
  · exact .inl rfl

theorem executeWord_of_decode {w : CommandWord} {i : Instr} (h : decode w = some i) (s : Machine.State) :
    executeWord w s = exec i s := by
  simp [executeWord, h]

theorem failure_of_executeWord_ne_dec {w : CommandWord} (hw : decode w ≠ some .dec) (h : executeWord w s = .next t)
    (herr : t.err ≠ 0) : ∃ e, t = raise e s := by
  cases hd : decode w with
  | none =>
    cases (executeWord_of_illegal ((decode_eq_none_iff w).mp hd) s).symm.trans h
    exact ⟨.illegal, rfl⟩
  | some i =>
    obtain ⟨u, hu, hcases⟩ := exec_succeeds_or_raises (fun hi => hw (hi ▸ hd)) s
    cases (hu.symm.trans (executeWord_of_decode hd s).symm).trans h
    exact hcases.resolve_left herr

/-- `DEC` fails in its checks 1 to 4 alone, since check 5 always passes (R96). -/
theorem failure_of_executeWord_dec {w : CommandWord} (hw : decode w = some .dec) (h : executeWord w s = .next t)
    (herr : t.err ≠ 0) :
    (∃ e, (e = .short ∨ e = .term) ∧ t = raise e s) ∨
    (∃ e, (e = .cksum ∨ e = .nonascii) ∧ t = raise e (latchChecksum (candidate s.buf) s)) := by
  cases ((executeWord_of_decode hw s).trans (exec_dec_eq s)).symm.trans h
  exact (decWithoutSelfCheck_cases s).resolve_left herr

/-- Settles O46: a failed word ends in `raise` of the state before it, or, where `DEC` fails from check 3 on, of that
state with the candidate's checksum latched; the code tells which of the two. -/
theorem stateAfterAFailure : Obligations.StateAfterAFailure := by
  intro w s t h herr
  by_cases hw : decode w = some .dec
  · obtain ⟨e, he, rfl⟩ | ⟨e, he, rfl⟩ := failure_of_executeWord_dec hw h herr
    · have hcode : ¬ (errCode e = 4 ∨ errCode e = 7 ∨ errCode e = 8) := by
        obtain rfl | rfl := he <;> decide
      exact ⟨rfl, rfl, rfl, rfl, rfl, fun _ => ⟨rfl, rfl, rfl⟩, fun _ hlatched => absurd hlatched hcode⟩
    · have hcode : ¬ (errCode e = 5 ∨ errCode e = 6) := by
        obtain rfl | rfl := he <;> decide
      exact ⟨rfl, rfl, rfl, rfl, rfl, fun hkept => absurd (hkept.resolve_left (not_not.mpr hw)) hcode,
        fun _ _ => ⟨rfl, isChecksum_checksum (candidate s.buf)⟩⟩
  · obtain ⟨e, rfl⟩ := failure_of_executeWord_ne_dec hw h herr
    exact ⟨rfl, rfl, rfl, rfl, rfl, fun _ => ⟨rfl, rfl, rfl⟩, fun hdec => absurd hdec hw⟩

end Sys2Proof.Proofs
end

section
/-! SUPPORT. The command word (spec/30_encoding.md R45 to R52): a word is its two fields, the decoder and the encoder are
inverse to each other on the well-formed operations, and the opcode table and the assembler agree with them. -/

namespace Sys2Proof.Proofs

open Sys2Proof.Machine Sys2Proof.Spec

/-! ### A word and its two fields (R45) -/

theorem opField_encode (i : Instr) : opField (encode i) = i.opcode :=
  (Laws.WordFields.fields_of_word _ _).1

theorem immField_encode (i : Instr) : immField (encode i) = i.immediate :=
  (Laws.WordFields.fields_of_word _ _).2

theorem word_eq_iff_fields {v w : CommandWord} : v = w ↔ opField v = opField w ∧ immField v = immField w := by
  simp only [BitVec.toNat_eq, opField_toNat, immField_toNat]
  omega

/-! ### Decoder and encoder (R46, R52) -/

@[simp] theorem withoutImm_eq_some_iff (imm : Byte) (i j : Instr) :
    withoutImm imm i = some j ↔ imm = 0x00 ∧ i = j := by
  simp [withoutImm]

theorem decode_encode {i : Instr} (hi : i.wellFormed = true) : decode (encode i) = some i := by
  simp only [decode, opField_encode, immField_encode]
  cases i with
  | cfg imm => exact if_pos hi
  | clr | abs _ | fin | csum | rstb | push _ | pop | enc | dec => rfl

/-- Row by row of the opcode map, a decoded word holds its operation's code and immediate. -/
theorem fields_of_decode {w : CommandWord} {i : Instr} (h : decode w = some i) :
    i.wellFormed = true ∧ opField w = i.opcode ∧ immField w = i.immediate := by
  simp only [decode] at h
  split at h
  case h_11 => cases h
  case h_10 hop =>
    obtain ⟨hlegal, h⟩ := Option.ite_none_right_eq_some.mp h
    cases h
    exact ⟨hlegal, BitVec.eq_of_toNat_eq hop, rfl⟩
  case h_2 hop | h_6 hop =>
    cases h
    exact ⟨rfl, BitVec.eq_of_toNat_eq hop, rfl⟩
  all_goals
    obtain ⟨himm, rfl⟩ := (withoutImm_eq_some_iff _ _ _).mp h
    exact ⟨rfl, BitVec.eq_of_toNat_eq ‹_›, himm⟩

/-- Each legal word is the word of exactly one well-formed operation. -/
theorem decode_eq_some_iff {w : CommandWord} {i : Instr} :
    decode w = some i ↔ i.wellFormed = true ∧ encode i = w := by
  constructor
  · intro h
    obtain ⟨hi, hop, himm⟩ := fields_of_decode h
    exact ⟨hi, word_eq_iff_fields.mpr ⟨(opField_encode i).trans hop.symm, (immField_encode i).trans himm.symm⟩⟩
  · rintro ⟨hi, rfl⟩
    exact decode_encode hi

theorem mapM_cons_eq_some_iff {w : CommandWord} {ws : List CommandWord} {is : List Instr} :
    (w :: ws).mapM decode = some is ↔ ∃ i rest, decode w = some i ∧ ws.mapM decode = some rest ∧ i :: rest = is := by
  rw [List.mapM_cons]
  simp only [Option.bind_eq_bind, Option.bind_eq_some_iff, Option.pure_def, Option.some_inj, exists_and_left]

theorem mapM_decode_eq_some_iff (ws : List CommandWord) (is : List Instr) :
    ws.mapM decode = some is ↔ (∀ i ∈ is, i.wellFormed = true) ∧ is.map encode = ws := by
  induction ws generalizing is with
  | nil => cases is <;> simp
  | cons w ws ih =>
    rw [mapM_cons_eq_some_iff]
    simp only [ih, decode_eq_some_iff]
    cases is with
    | nil => simp
    | cons i is => simp; tauto

/-! ### The opcode table (R46, spec/opcode_table.json) -/

/-- A row tests the two fields of a word one by one. -/
theorem holds_iff (r : OpcodeRow) (w : CommandWord) :
    r.holds w = true ↔ opField w &&& opField r.mask = opField r.pattern ∧
      immField w &&& immField r.mask = immField r.pattern := by
  rw [OpcodeRow.holds, beq_iff_eq, word_eq_iff_fields, opField, opField, immField, immField, BitVec.extractLsb'_and,
    BitVec.extractLsb'_and]
  rfl

/-- The mask of `CFG`'s row leaves `imm[7:1]` (R48). -/
theorem byte_and_fe_eq_zero_iff (imm : Byte) : imm &&& 0xFE = 0 ↔ cfgImmLegal imm = true := by
  revert imm; decide

/-- Every row asks for one operation code, and of the immediate nothing, or that `CFG` allows it, or that it is 0x00. -/
theorem shape_of_row : ∀ r ∈ opcodeTable, opField r.mask = 0xF ∧
    (((opField r.pattern).toNat ∈ [0x1, 0x5] ∧ immField r.mask = 0x00) ∨
      (opField r.pattern = 0x9 ∧ immField r.mask = 0xFE ∧ immField r.pattern = 0x00) ∨
      ((opField r.pattern).toNat ∈ [0x0, 0x2, 0x3, 0x4, 0x6, 0x7, 0x8] ∧ immField r.mask = 0xFF ∧
        immField r.pattern = 0x00)) := by
  decide

theorem decode_ne_none_of_holds {r : OpcodeRow} (hr : r ∈ opcodeTable) {w : CommandWord} (h : r.holds w = true) :
    decode w ≠ none := by
  obtain ⟨hop, himm⟩ := (holds_iff r w).mp h
  obtain ⟨hmask, hshape⟩ := shape_of_row r hr
  have hop : opField w = opField r.pattern := by
    rw [← hop, hmask]
    exact BitVec.and_allOnes.symm
  rw [Ne, decode_eq_none_iff]
  simp only [IllegalWord, ← opField_toNat, ← immField_toNat, ← cfgImmLegal_eq_false_iff, hop]
  obtain ⟨hrow, -⟩ | ⟨hrow, himmMask, hzero⟩ | ⟨hrow, himmMask, hzero⟩ := hshape
  · simp only [List.mem_cons, List.not_mem_nil, or_false] at hrow ⊢
    omega
  · have hlegal : cfgImmLegal (immField w) = true := by
      rw [← byte_and_fe_eq_zero_iff, ← hzero, ← himm, himmMask]
    simp [hrow, hlegal]
  · have himm0 : immField w = 0x00 := by
      rw [← hzero, ← himm, himmMask]
      exact BitVec.and_allOnes.symm
    have himm0' : (immField w).toNat = 0 := congrArg BitVec.toNat himm0
    simp only [List.mem_cons, List.not_mem_nil, or_false] at hrow ⊢
    omega

theorem holds_iff_mnemonic_of_decode {w : CommandWord} {i : Instr} (h : decode w = some i) :
    ∀ r ∈ opcodeTable, (r.holds w = true ↔ r.mnemonic = i.mnemonic) := by
  obtain ⟨hi, hop, himm⟩ := fields_of_decode h
  simp only [holds_iff, hop, himm]
  cases i with
  | cfg imm =>
    have hmask : imm &&& 0xFE = 0 := (byte_and_fe_eq_zero_iff imm).mpr hi
    simpa [opcodeTable, opField, immField, Instr.opcode, Instr.immediate, Instr.mnemonic] using hmask
  | clr | abs _ | fin | csum | rstb | push _ | pop | enc | dec =>
    simp [opcodeTable, opField, immField, Instr.opcode, Instr.immediate, Instr.mnemonic]

theorem exists_row_of_mnemonic (i : Instr) : ∃ r ∈ opcodeTable, r.mnemonic = i.mnemonic := by
  cases i <;> simp [opcodeTable, Instr.mnemonic]

/-! ### The assembler (R52) -/

theorem hexDigit_digitOf {n : Nat} (h : n < 16) : hexDigit (digitOf n) = some n := by
  revert n; decide

theorem immediateOf_hexImmediate (b : Byte) : immediateOf (hexImmediate b) = some (b, []) := by
  have hvalue : BitVec.ofNat 8 (16 * (b.toNat / 16) + b.toNat % 16) = b := by
    rw [Nat.div_add_mod, BitVec.ofNat_toNat, BitVec.setWidth_eq]
  simp only [hexImmediate, immediateOf, hexDigit_digitOf (n := b.toNat / 16) (by omega),
    hexDigit_digitOf (n := b.toNat % 16) (by omega), hvalue]

theorem assembleLine_printLine (i : Instr) : assembleLine (printLine i) = some i := by
  cases i with
  | clr | fin | csum | rstb | pop | enc | dec => rfl
  | abs imm | push imm | cfg imm =>
    simp [assembleLine, printLine, mnemonicOf, plainOperation, immOperation, immediateOf_hexImmediate, restIsComment]

/-! ### How many words are legal (R49) -/

/-- The legal words: seven operations without immediate, two words of `CFG`, and all of `ABS` and `PUSH`. -/
def legalWords : Finset Nat :=
  {0x000, 0x200, 0x300, 0x400, 0x600, 0x700, 0x800, 0x900, 0x901} ∪ (Finset.Ico 0x100 0x200 ∪ Finset.Ico 0x500 0x600)

theorem mem_legalWords_iff {w : Nat} : w ∈ legalWords ↔ w < 4096 ∧ ¬ IllegalWord w := by
  simp only [legalWords, IllegalWord, Finset.mem_union, Finset.mem_insert, Finset.mem_singleton, Finset.mem_Ico,
    List.mem_cons, List.not_mem_nil, or_false]
  omega

theorem card_legalWords : legalWords.card = 521 := by
  have hrows : Disjoint (Finset.Ico 0x100 0x200) (Finset.Ico 0x500 0x600) := by
    simp only [Finset.disjoint_left, Finset.mem_Ico]
    omega
  have hsingle : Disjoint ({0x000, 0x200, 0x300, 0x400, 0x600, 0x700, 0x800, 0x900, 0x901} : Finset Nat)
      (Finset.Ico 0x100 0x200 ∪ Finset.Ico 0x500 0x600) := by
    simp [Finset.disjoint_left]
  rw [legalWords, Finset.card_union_of_disjoint hsingle, Finset.card_union_of_disjoint hrows, Nat.card_Ico,
    Nat.card_Ico]
  rfl

theorem isSome_decode_iff {w : Nat} (hw : w < 4096) : (decode (BitVec.ofNat 12 w)).isSome ↔ ¬ IllegalWord w := by
  rw [Option.isSome_iff_ne_none, Ne, decode_eq_none_iff, BitVec.toNat_ofNat, Nat.mod_eq_of_lt hw]

theorem toFinset_filter_range :
    ((List.range 4096).filter fun w => (decode (BitVec.ofNat 12 w)).isSome).toFinset = legalWords := by
  ext w
  rw [List.mem_toFinset, List.mem_filter, List.mem_range, mem_legalWords_iff]
  exact and_congr_right isSome_decode_iff

/-! ### The obligations -/

/-- Settles O1: thirteen words, evaluated. -/
theorem sampleWordsDecodeByTheOpcodeMap : Obligations.SampleWordsDecodeByTheOpcodeMap := by
  unfold Obligations.SampleWordsDecodeByTheOpcodeMap
  decide

/-- Settles O2: a word decodes to an operation exactly when this is well formed and encodes to it, and so for a sequence
word by word. -/
theorem decodeAndEncodeAgree : Obligations.DecodeAndEncodeAgree :=
  ⟨fun _ => decode_encode, mapM_decode_eq_some_iff⟩

/-- Settles O3: the word determines the operation and is its encoding (`decode_eq_some_iff`). -/
theorem decodedWordEncodesBack : Obligations.DecodedWordEncodesBack :=
  fun _ _ => decode_eq_some_iff.mp

/-- Settles O4: row by row, the decoder's tests fail where R50 says so (`decode_eq_none_iff`). -/
theorem illegalWordsAreExactlyThese : Obligations.IllegalWordsAreExactlyThese :=
  decode_eq_none_iff

/-- Settles O5: the legal words written out as intervals are counted, not decoded one by one. -/
theorem legalWordsNumber521 : Obligations.LegalWordsNumber521 := by
  rw [Obligations.LegalWordsNumber521, ← List.toFinset_card_of_nodup (List.nodup_range.filter _), toFinset_filter_range,
    card_legalWords]

/-- Settles O6: every operation has a row, a decoded word belongs to the row of its operation alone, and no row holds of
an illegal word. -/
theorem decoderAgreesWithTheOpcodeTable : Obligations.DecoderAgreesWithTheOpcodeTable := by
  refine ⟨fun w => ⟨fun h r hr => ?_, fun h => ?_⟩, fun w i => holds_iff_mnemonic_of_decode⟩
  · exact Bool.eq_false_iff.mpr fun hholds => decode_ne_none_of_holds hr hholds h
  · refine Option.eq_none_iff_forall_ne_some.mpr fun i hi => ?_
    obtain ⟨r, hr, hname⟩ := exists_row_of_mnemonic i
    exact ne_true_of_eq_false (h r hr) ((holds_iff_mnemonic_of_decode hi r hr).mpr hname)

/-- Settles O7: the assembler reads the printed line as the operation it was printed for, well formed or not. -/
theorem printedLineAssemblesToItsWord : Obligations.PrintedLineAssemblesToItsWord := by
  intro i _
  rw [assembleWord, assembleLine_printLine, Option.map_some]

end Sys2Proof.Proofs
end

section
/-! SUPPORT. What an operation does, said once for all ten: the code it reports (`verdict`, read from `BUF` and `BUFSZ`
alone), what a success writes (`effect`), and what a failure leaves. Write sets, codes and what is not read follow. -/

namespace Sys2Proof.Proofs

open Sys2Proof.Machine Sys2Proof.Spec

/-- The result that an operation reports (spec/60_exceptions.md R100, R105). Its checks read nothing of the state but the
buffer and its capacity. -/
def verdict (size : BufSize) (b : Buffer) : Instr → ErrKind
  | .clr => .ok
  | .abs _ => .ok
  | .fin => .ok
  | .csum => .ok
  | .rstb => .ok
  | .push _ => if isFull size b.length then .overflow else .ok
  | .pop => if b = [] then .empty else .ok
  | .enc => if asciiOk b = false then .nonascii else if exceeds size (b.length + 3) then .overflow else .ok
  | .dec =>
    if b.length < 3 then .short
    else if endsInTerminator b = false then .term
    else if frame (candidate b) ≠ b then .cksum
    else if asciiOk (candidate b) = false then .nonascii
    else .ok
  | .cfg imm => if cfgImmLegal imm then .ok else .illegal

/-- What an operation that succeeds writes, `ERR` aside. -/
def effect (s : Machine.State) : Instr → Machine.State
  | .clr => s.setAcc 0x0000
  | .abs imm => s.setAcc (crcByte s.acc imm)
  | .fin => finalise s
  | .csum => latchChecksum s.buf s
  | .rstb => s.setBuf []
  | .push imm => s.setBuf (s.buf ++ [imm])
  | .pop => (s.setDout (s.buf.headD 0x00)).setBuf s.buf.tail
  | .enc => appendTrailer (latchChecksum s.buf s)
  | .dec => (latchChecksum (candidate s.buf) s).setBuf (candidate s.buf)
  | .cfg imm => s.setSelfchk (selfchkBit imm)

/-- What an operation that reports `e` leaves, `ERR` aside: its effect on success, and on a failure the state before it,
but for a `DEC` that had its checksum recomputed (spec/60_exceptions.md R106). -/
def written (s : Machine.State) (i : Instr) (e : ErrKind) : Machine.State :=
  if e = .ok then effect s i
  else if i = .dec ∧ (e = .cksum ∨ e = .nonascii) then latchChecksum (candidate s.buf) s
  else s

/-- The next state of an operation. -/
def result (i : Instr) (s : Machine.State) : Machine.State :=
  raise (verdict s.bufsz s.buf i) (written s i (verdict s.bufsz s.buf i))

theorem exec_eq (i : Instr) (s : Machine.State) : exec i s = .next (result i s) := by
  cases i with
  | clr | abs _ | fin | csum | rstb => rfl
  | push imm =>
    obtain ⟨hfull, h⟩ | ⟨hfull, h⟩ := execPush_cases imm s <;> rw [exec, h] <;>
      simp [result, verdict, written, effect, ok, raise, show isFull s.bufsz s.buf.length = _ from hfull]
  | pop =>
    obtain ⟨hbuf, h⟩ | ⟨head, rest, hbuf, h⟩ := execPop_cases s <;> rw [exec, h] <;>
      simp [result, verdict, written, effect, ok, raise, hbuf]
  | enc =>
    obtain ⟨hascii, h⟩ | ⟨hascii, hroom, h⟩ | ⟨hascii, hroom, h⟩ := execEnc_cases s <;> rw [exec, h]
    · simp [result, verdict, written, hascii]
    · simp [result, verdict, written, hascii, show exceeds s.bufsz (s.buf.length + 3) = _ from hroom]
    · simp [result, verdict, written, effect, ok, raise, hascii, show exceeds s.bufsz (s.buf.length + 3) = _ from hroom]
  | dec =>
    rw [exec_dec_eq, decWithoutSelfCheck]
    by_cases hlen : s.buf.length < 3
    · simp [result, verdict, written, State.len, hlen]
    cases hterm : endsInTerminator s.buf with
    | false => simp [result, verdict, written, State.len, hlen, hterm]
    | true =>
      have hsum : checksumMatches (latchChecksum (candidate s.buf) s) = true ↔ frame (candidate s.buf) = s.buf := by
        simpa [State.len, Nat.le_of_not_lt hlen, hterm] using checks_pass_iff_eq_frame s
      by_cases hframe : frame (candidate s.buf) = s.buf
      · cases hascii : asciiOk (candidate s.buf) <;>
          simp [result, verdict, written, effect, ok, raise, State.len, hlen, hterm, hsum.mpr hframe, hframe, hascii]
      · have hsum' := eq_false_of_ne_true (mt hsum.mp hframe)
        simp [result, verdict, written, State.len, hlen, hterm, hsum', hframe]
  | cfg imm =>
    obtain ⟨hlegal, h⟩ | ⟨hlegal, h⟩ := execCfg_cases imm s <;> rw [exec, h] <;>
      simp [result, verdict, written, effect, ok, raise, illegalWord, hlegal]

theorem eq_result_of_exec {i : Instr} {s t : Machine.State} (h : exec i s = .next t) : t = result i s :=
  (Host.Outcome.next.inj ((exec_eq i s).symm.trans h)).symm

theorem errCode_eq_zero_iff (e : ErrKind) : errCode e = 0 ↔ e = .ok := by
  cases e <;> decide

theorem result_of_ok {i : Instr} {s : Machine.State} (h : verdict s.bufsz s.buf i = .ok) :
    result i s = ok (effect s i) := by
  rw [result, h]
  rfl

/-- The three ways in which an operation can end. -/
theorem exec_cases {i : Instr} {s t : Machine.State} (h : exec i s = .next t) :
    (verdict s.bufsz s.buf i = .ok ∧ t = ok (effect s i)) ∨
    (∃ e, e ≠ .ok ∧ t = raise e s) ∨
    (i = .dec ∧ ∃ e, (e = .cksum ∨ e = .nonascii) ∧ t = raise e (latchChecksum (candidate s.buf) s)) := by
  cases eq_result_of_exec h
  by_cases hv : verdict s.bufsz s.buf i = .ok
  · exact .inl ⟨hv, result_of_ok hv⟩
  · rw [result, written, if_neg hv]
    split_ifs with hdec
    · exact .inr (.inr ⟨hdec.1, _, hdec.2, rfl⟩)
    · exact .inr (.inl ⟨_, hv, rfl⟩)

/-- An operation that reports 0 has passed its checks and had its effect. -/
theorem success_of_exec {i : Instr} {s t : Machine.State} (h : exec i s = .next t) (herr : t.err = 0) :
    verdict s.bufsz s.buf i = .ok ∧ t = ok (effect s i) := by
  cases eq_result_of_exec h
  have hv := (errCode_eq_zero_iff _).mp herr
  exact ⟨hv, result_of_ok hv⟩

/-! ### What a success has found -/

theorem verdict_pop_eq_ok_iff {size : BufSize} {b : Buffer} : verdict size b .pop = .ok ↔ b ≠ [] := by
  simp [verdict]

theorem verdict_enc_eq_ok_iff {size : BufSize} {b : Buffer} :
    verdict size b .enc = .ok ↔ SevenBit b ∧ Fits size (b.length + 3) := by
  rw [← asciiOk_iff_sevenBit, ← exceeds_eq_false_iff_fits]
  cases hascii : asciiOk b <;> cases hroom : exceeds size (b.length + 3) <;> simp [verdict, hascii, hroom]

theorem verdict_dec_eq_ok_iff {size : BufSize} {b : Buffer} :
    verdict size b .dec = .ok ↔ SevenBit (candidate b) ∧ frame (candidate b) = b := by
  have hlen (h : frame (candidate b) = b) : ¬ b.length < 3 := by
    rw [← h]
    simp [frame]
  have hterm (h : frame (candidate b) = b) : endsInTerminator b = true := by
    rw [← h, frame, endsInTerminator_trailer]
    rfl
  rw [← asciiOk_iff_sevenBit]
  by_cases h : frame (candidate b) = b
  · cases hascii : asciiOk (candidate b) <;> simp [verdict, h, hlen h, hterm h, hascii]
  · simp only [verdict, h, and_false, iff_false]
    split_ifs <;> simp_all

/-! ### Write sets (R19) -/

/-- Settles O44: a success writes its `effect`; a failure leaves the state before it, or, in `DEC` from check 3 on, that
state with the checksum latched, under a code other than 5 and 6. -/
theorem writeSetsOfTheOperations : Obligations.WriteSetsOfTheOperations := by
  intro i s t h
  obtain ⟨-, rfl⟩ | ⟨e, -, rfl⟩ | ⟨rfl, e, he, rfl⟩ := exec_cases h
  · cases i <;> simp [effect, mayWriteAcc, mayWriteChecksum, mayWriteBuf, isCfg]
  · simp
  · have hearly : ¬ (errCode e = 5#4 ∨ errCode e = 6#4) := by obtain rfl | rfl := he <;> decide
    simp [mayWriteAcc, mayWriteChecksum, hearly]

theorem buf_eq_of_failure {i : Instr} {s t : Machine.State} (h : exec i s = .next t) (herr : t.err ≠ 0) :
    t.buf = s.buf := by
  obtain ⟨-, -, hbuf, -⟩ := writeSetsOfTheOperations i s t h
  exact hbuf (.inr herr)

/-- `BUFSZ` and what the host has yet to do are no operation's to write. -/
theorem bufsz_host_of_exec {i : Instr} {s t : Machine.State} (h : exec i s = .next t) :
    t.bufsz = s.bufsz ∧ t.host = s.host := by
  obtain ⟨-, -, -, -, -, -, -, hkept⟩ := writeSetsOfTheOperations i s t h
  exact hkept

theorem byteAt_of_length_le {b : Buffer} {a : Nat} (h : b.length ≤ a) : byteAt b a = none :=
  List.getElem?_eq_none h

/-- Appending is seen at the appended indices alone. -/
theorem byteAt_append_outside {b t : Buffer} {a : Nat} (h : a < b.length ∨ b.length + t.length ≤ a) :
    byteAt (b ++ t) a = byteAt b a := by
  obtain h | h := h
  · exact byteAt_append_left h
  · rw [byteAt_of_length_le (by simpa using h), byteAt_of_length_le (by omega)]

theorem byteAt_tail (b : Buffer) (a : Nat) : byteAt b.tail a = byteAt b (a + 1) := by
  cases b <;> simp

@[simp] theorem byteAt_cons_zero (head : Byte) (rest : Buffer) : byteAt (head :: rest) 0 = some head := rfl

theorem byteAt_append_length (b t : Buffer) : byteAt (b ++ t) b.length = byteAt t 0 := by
  rw [byteAt_append_right (Nat.le_refl _), Nat.sub_self]

theorem byteAt_append_length_add (b t : Buffer) (k : Nat) : byteAt (b ++ t) (b.length + k) = byteAt t k := by
  rw [byteAt_append_right (Nat.le_add_right _ _), Nat.add_sub_cancel_left]

/-- Settles O45: a failure leaves the buffer; a success appends to it, takes its tail or its candidate, or empties it. -/
theorem bytesOfTheBufferThatStay : Obligations.BytesOfTheBufferThatStay := by
  intro i s t h
  by_cases herr : t.err = 0#4
  · obtain ⟨hv, rfl⟩ := success_of_exec h herr
    cases i with
    | clr | abs _ | fin | csum | rstb | cfg _ => simp [effect, mayWriteBuf]
    | push imm =>
      have hnew : byteAt (s.buf ++ [imm]) s.buf.length = some imm := byteAt_append_length s.buf [imm]
      have hstay (a : Nat) (ha : a ≠ s.buf.length) : byteAt (s.buf ++ [imm]) a = byteAt s.buf a :=
        byteAt_append_outside (by simp; omega)
      simpa [effect, mayWriteBuf, State.len, hnew] using hstay
    | pop =>
      have hlen : s.buf.length = s.buf.length - 1 + 1 :=
        (Nat.sub_add_cancel (List.length_pos_iff.mpr (verdict_pop_eq_ok_iff.mp hv))).symm
      simpa [effect, mayWriteBuf, State.len, byteAt_tail] using hlen
    | enc =>
      have hstay (a : Nat) (ha : a < s.buf.length ∨ s.buf.length + 3 ≤ a) :
          byteAt (s.buf ++ [(checksum s.buf).1, (checksum s.buf).2, terminator]) a = byteAt s.buf a :=
        byteAt_append_outside ha
      simpa [effect, mayWriteBuf, State.len, byteAt_append_length, byteAt_append_length_add, terminator] using hstay
    | dec =>
      have hlen : s.buf.length = s.buf.length - 3 + 3 := by
        rw [← (verdict_dec_eq_ok_iff.mp hv).2]
        simp [frame]
      have hstay (a : Nat) (ha : a < s.buf.length - 3) : byteAt (candidate s.buf) a = byteAt s.buf a := by
        rw [byteAt_candidate, if_pos ha]
      have hgone (a : Nat) (ha : s.buf.length ≤ a + 3) : byteAt (candidate s.buf) a = none :=
        byteAt_of_length_le (by simpa using ha)
      simpa [effect, mayWriteBuf, State.len] using ⟨hlen, hstay, hgone⟩
  · have hbuf : t.buf = s.buf := buf_eq_of_failure h herr
    have hrstb : i ≠ .rstb := by
      rintro rfl
      cases h
      exact herr rfl
    simp [hbuf, herr, hrstb]

/-! ### Codes (R100) -/

theorem cfgImmLegal_iff (imm : Byte) : cfgImmLegal imm = true ↔ imm.toNat ≤ 1 := by
  rw [← Bool.not_eq_false, cfgImmLegal_eq_false_iff]
  omega

/-- Each check that an operation makes has its own code. -/
theorem errCode_verdict_mem (size : BufSize) (b : Buffer) (i : Instr) : errCode (verdict size b i) ∈ mayReport i := by
  cases i with
  | clr | abs _ | fin | csum | rstb => simp [verdict, mayReport, errCode]
  | cfg imm =>
    simp only [verdict, mayReport, cfgImmLegal_iff]
    split_ifs <;> simp [errCode]
  | push _ | pop | enc | dec =>
    simp only [verdict, mayReport]
    split_ifs <;> simp [errCode]

theorem err_mem_mayReport {i : Instr} {s t : Machine.State} (h : exec i s = .next t) : t.err ∈ mayReport i := by
  cases eq_result_of_exec h
  exact errCode_verdict_mem _ _ i

theorem illegal_not_mem_mayReport {i : Instr} (hi : i.wellFormed = true) : 1 ∉ mayReport i := by
  cases i with
  | cfg imm => simp [mayReport, (cfgImmLegal_iff imm).mp hi]
  | clr | abs _ | fin | csum | rstb | push _ | pop | enc | dec => simp [mayReport]

/-- Settles O47: an operation reports its verdict, and no well-formed operation has the verdict of an illegal word. -/
theorem codesEachOperationReports : Obligations.CodesEachOperationReports := by
  refine ⟨fun i s t => err_mem_mayReport, fun w s t h => ?_⟩
  cases hw : decode w with
  | none =>
    cases (executeWord_of_illegal ((decode_eq_none_iff w).mp hw) s).symm.trans h
    simp
  | some i =>
    have hmem := err_mem_mayReport ((executeWord_of_decode hw s).symm.trans h)
    have hlegal := illegal_not_mem_mayReport (decode_eq_some_iff.mp hw).1
    exact iff_of_false (fun herr => hlegal (herr ▸ hmem)) nofun

/-! ### What is not read (R10 to R14, R21, R22)

Each of these updates leaves `BUF` and `BUFSZ`, and so the verdict; what is written is compared on a success, on a late
failure of `DEC` and on every other failure. -/

/-- What the host has yet to do is neither read nor written by an operation. -/
theorem result_setHost (i : Instr) (s : Machine.State) (events : List HostEvent) :
    result i (s.setHost events) = (result i s).setHost events := by
  have hwritten (e : ErrKind) : written (s.setHost events) i e = (written s i e).setHost events := by
    unfold written
    split_ifs
    · cases i <;> rfl
    · rfl
    · rfl
  exact congrArg (raise (verdict s.bufsz s.buf i)) (hwritten _)

theorem exec_setHost {i : Instr} {s t : Machine.State} (h : exec i s = .next t) (events : List HostEvent) :
    exec i (s.setHost events) = .next (t.setHost events) := by
  rw [exec_eq, result_setHost, eq_result_of_exec h]

/-- But for `ABS` and `FIN`, an old value of `ACC` is seen in `ACC` alone. -/
theorem result_setAcc {i : Instr} (habs : ∀ b, i ≠ .abs b) (hfin : i ≠ .fin) (s : Machine.State) (a : Word16) :
    (result i (s.setAcc a)).setAcc (result i s).acc = result i s := by
  have hwritten (e : ErrKind) : (written (s.setAcc a) i e).setAcc (written s i e).acc = written s i e := by
    unfold written
    split_ifs
    · cases i with
      | abs b => exact absurd rfl (habs b)
      | fin => exact absurd rfl hfin
      | clr | csum | rstb | push _ | pop | enc | dec | cfg _ => rfl
    · rfl
    · rfl
  exact congrArg (raise (verdict s.bufsz s.buf i)) (hwritten _)

/-- A successful operation other than `ABS` that writes `ACC` starts from 0 (R10). -/
theorem effect_setAcc_acc {i : Instr} (habs : ∀ b, i ≠ .abs b) (hacc : mayWriteAcc i = true) (s : Machine.State)
    (a : Word16) : (effect (s.setAcc a) i).acc = (effect s i).acc := by
  cases i with
  | abs b => exact absurd rfl (habs b)
  | clr | csum | enc | dec => rfl
  | fin | rstb | push _ | pop | cfg _ => cases hacc

/-- The state with other values in the registers that the host alone reads. -/
def setResults (s : Machine.State) (high low out : Byte) : Machine.State := (s.setChecksum high low).setDout out

theorem result_setResults (i : Instr) (s : Machine.State) (high low out : Byte) :
    (result i (setResults s high low out)).acc = (result i s).acc ∧
    (result i (setResults s high low out)).buf = (result i s).buf ∧
    (result i (setResults s high low out)).selfchk = (result i s).selfchk := by
  have hwritten (e : ErrKind) : (written (setResults s high low out) i e).acc = (written s i e).acc ∧
      (written (setResults s high low out) i e).buf = (written s i e).buf ∧
      (written (setResults s high low out) i e).selfchk = (written s i e).selfchk := by
    unfold written
    split_ifs
    · cases i <;> exact ⟨rfl, rfl, rfl⟩
    · exact ⟨rfl, rfl, rfl⟩
    · exact ⟨rfl, rfl, rfl⟩
  exact hwritten _

theorem effect_setResults_checksum {i : Instr} (hi : mayWriteChecksum i = true) (s : Machine.State)
    (high low out : Byte) : (effect (setResults s high low out) i).ckh = (effect s i).ckh ∧
      (effect (setResults s high low out) i).ckl = (effect s i).ckl := by
  cases i with
  | fin | csum | enc | dec => exact ⟨rfl, rfl⟩
  | clr | abs _ | rstb | push _ | pop | cfg _ => cases hi

/-- Settles O48: `ERR` is in no check and in no written value, and every word overwrites it. -/
theorem noOperationReadsErr : Obligations.NoOperationReadsErr := by
  intro w s e
  simp only [executeWord]
  cases decode w with
  | none => rfl
  | some i => cases i <;> rfl

/-- Settles O49: the two runs have the same verdict, and no effect reads one of the three registers. -/
theorem resultRegistersAreNotRead : Obligations.ResultRegistersAreNotRead := by
  intro i s t high low out h
  cases eq_result_of_exec h
  obtain ⟨hacc, hbuf, hself⟩ := result_setResults i s high low out
  refine ⟨_, exec_eq i (setResults s high low out), hacc, hbuf, rfl, hself, fun hi herr => ?_, fun hi herr => ?_⟩
  all_goals
    have hv : verdict s.bufsz s.buf i = .ok := (errCode_eq_zero_iff _).mp herr
    rw [result_of_ok (s := setResults s high low out) hv, result_of_ok hv]
  · exact effect_setResults_checksum hi s high low out
  · cases hi
    rfl

/-- Settles O50: the two runs have the same verdict, and no effect but that of `ABS` and `FIN` reads `ACC`. -/
theorem onlyAbsAndFinReadTheAccumulator : Obligations.OnlyAbsAndFinReadTheAccumulator := by
  intro i s t a habs hfin h
  cases eq_result_of_exec h
  refine ⟨_, exec_eq i (s.setAcc a), result_setAcc habs hfin s a, fun hacc herr => ?_⟩
  have hv : verdict s.bufsz s.buf i = .ok := (errCode_eq_zero_iff _).mp herr
  rw [result_of_ok (s := s.setAcc a) hv, result_of_ok hv]
  exact effect_setAcc_acc habs hacc s a

section

variable {i : Instr} {s s' : Machine.State}

theorem verdict_congr_of_blind (hblind : blindToContent i = true) (hsize : s.bufsz = s'.bufsz)
    (hlen : s.buf.length = s'.buf.length) : verdict s.bufsz s.buf i = verdict s'.bufsz s'.buf i := by
  cases i with
  | clr | abs _ | fin | rstb | cfg _ => rfl
  | push imm => simp only [verdict, hsize, hlen]
  | csum | pop | enc | dec => cases hblind

/-- The status after the effect of each of the six operations is a function of the status before it. -/
theorem readStatus_effect_congr (hblind : blindToContent i = true) (hstatus : readStatus s = readStatus s') :
    readStatus (effect s i) = readStatus (effect s' i) := by
  cases i with
  | clr => exact congrArg (fun p => { p with acc := 0x0000 }) hstatus
  | abs imm => exact congrArg (fun p => { p with acc := crcByte p.acc imm }) hstatus
  | fin => exact congrArg (fun p => { p with ckh := adj (highByte p.acc), ckl := adj (lowByte p.acc) }) hstatus
  | rstb => exact congrArg (fun p => { p with len := 0 }) hstatus
  | push imm =>
    have hpush (u : Machine.State) : readStatus (effect u (.push imm)) = { readStatus u with len := u.len + 1 } := by
      simp [readStatus, effect, State.len]
    rw [hpush, hpush]
    exact congrArg (fun p => { p with len := p.len + 1 }) hstatus
  | cfg imm => exact congrArg (fun p => { p with selfchk := selfchkBit imm }) hstatus
  | csum | pop | enc | dec => cases hblind

theorem readStatus_result_congr (hblind : blindToContent i = true) (hsize : s.bufsz = s'.bufsz)
    (hstatus : readStatus s = readStatus s') : readStatus (result i s) = readStatus (result i s') := by
  have hdec : i ≠ .dec := by rintro rfl; cases hblind
  have hwritten (e : ErrKind) : readStatus (written s i e) = readStatus (written s' i e) := by
    simp only [written, hdec, false_and, if_false]
    split_ifs
    · exact readStatus_effect_congr hblind hstatus
    · exact hstatus
  rw [result, result, verdict_congr_of_blind hblind hsize (congrArg StatusPort.len hstatus)]
  exact congrArg (fun p => { p with err := errCode (verdict s'.bufsz s'.buf i) }) (hwritten _)

end

/-- Settles O53: the port is made of the registers and the length, and the six operations map equal ports to equal
ports (`readStatus_result_congr`). -/
theorem statusPortHidesTheBufferContent : Obligations.StatusPortHidesTheBufferContent := by
  refine ⟨fun s => rfl, fun s b hlen => ?_, fun i s s' t t' hblind hsize hstatus h h' => ?_⟩
  · simp [readStatus, State.len, hlen]
  · rw [eq_result_of_exec h, eq_result_of_exec h']
    exact readStatus_result_congr hblind hsize hstatus

end Sys2Proof.Proofs
end

section
/-! SUPPORT. The step (spec/10_state.md R20 to R25, spec/70_reset_and_hazards.md R120): what it does for each event of the
host, runs of issued words, and what a change of `SELFCHK` or `DOUT` tells of the event. -/

namespace Sys2Proof.Proofs

open Sys2Proof.Machine Sys2Proof.Spec

variable {s t : Machine.State}

/-! ### One event -/

theorem step_of_nil (h : s.host = []) : step s = .next s := by
  simp [step, takeEvent_of_nil h, hold]

theorem step_of_reset {rest : List HostEvent} (h : s.host = .reset :: rest) :
    step s = .next (assertReset (s.setHost rest)) := by
  simp [step, takeEvent_of_cons h]

theorem step_of_decode {w : CommandWord} {rest : List HostEvent} {i : Instr} (h : s.host = .command w :: rest)
    (hw : decode w = some i) : step s = exec i (s.setHost rest) :=
  (step_of_command h).trans (executeWord_of_decode hw _)

theorem exists_executeWord (w : CommandWord) (s : Machine.State) : ∃ t, executeWord w s = .next t := by
  cases hw : decode w with
  | none => exact ⟨_, executeWord_of_illegal ((decode_eq_none_iff w).mp hw) s⟩
  | some i => exact ⟨_, (executeWord_of_decode hw s).trans (exec_eq i s)⟩

theorem exists_step (s : Machine.State) : ∃ t, step s = .next t := by
  cases hhost : s.host with
  | nil => exact ⟨s, step_of_nil hhost⟩
  | cons event rest =>
    cases event with
    | command w =>
      rw [step_of_command hhost]
      exact exists_executeWord w _
    | reset => exact ⟨_, step_of_reset hhost⟩

/-! ### Issued words -/

theorem step_issueAll_cons {i : Instr} (hi : i.wellFormed = true) (rest : List Instr) (s : Machine.State) :
    step (issueAll (i :: rest) s) = exec i (issueAll rest s) :=
  step_of_decode rfl (decode_encode hi)

/-- The operation that a step runs leaves the words behind it for the steps to come. -/
theorem steps_issueAll (is : List Instr) (his : ∀ i ∈ is, i.wellFormed = true) (s : Machine.State) :
    steps is.length (issueAll is s) = execAll is s := by
  induction is generalizing s with
  | nil => rfl
  | cons i rest ih =>
    obtain ⟨hi, hrest⟩ := List.forall_mem_cons.mp his
    have hexec : exec i (issueAll rest s) = .next (issueAll rest (result i s)) := by
      rw [issueAll, exec_setHost (exec_eq i s), issueAll, (bufsz_host_of_exec (exec_eq i s)).2]
    simp only [List.length_cons, steps, step_issueAll_cons hi, hexec, continueWith_next, ih hrest, execAll, exec_eq]

theorem issueNext_of_lt {w : Nat} (hw : w < 2 ^ 12) (s : Machine.State) :
    issueNext w s = s.setHost (.command (BitVec.ofNat 12 w) :: s.host) :=
  if_pos hw

theorem decodeTableWord_eq_some_iff {nbits w : Nat} {i : Instr} :
    decodeTableWord nbits w = some i ↔ w % 2 ^ nbits < 2 ^ 12 ∧ decode (BitVec.ofNat 12 (w % 2 ^ nbits)) = some i :=
  Option.ite_none_right_eq_some

/-! ### What a change tells of the event (R13, R15) -/

/-- A step that changes a register which illegal words and the idle step keep is a reset or a legal word. -/
theorem event_of_change {α : Type} {f : Machine.State → α} (hhost : ∀ u events, f (State.setHost u events) = f u)
    (hillegal : ∀ u, f (illegalWord u) = f u) (h : step s = .next t) (hne : f t ≠ f s) :
    (∃ rest i, s.host = .command (encode i) :: rest ∧ i.wellFormed = true ∧ exec i (s.setHost rest) = .next t) ∨
    (∃ rest, s.host = .reset :: rest ∧ t = assertReset (s.setHost rest)) := by
  cases hevents : s.host with
  | nil =>
    cases (step_of_nil hevents).symm.trans h
    exact absurd rfl hne
  | cons event rest =>
    cases event with
    | reset =>
      cases (step_of_reset hevents).symm.trans h
      exact .inr ⟨rest, rfl, rfl⟩
    | command w =>
      cases hw : decode w with
      | none =>
        cases ((step_of_command hevents).trans (executeWord_of_illegal ((decode_eq_none_iff w).mp hw) _)).symm.trans h
        exact absurd ((hillegal _).trans (hhost s rest)) hne
      | some i =>
        obtain ⟨hi, rfl⟩ := decode_eq_some_iff.mp hw
        exact .inl ⟨rest, i, rfl, hi, (step_of_decode hevents hw).symm.trans h⟩

/-- `CFG` has two legal immediates (R48). -/
theorem eq_of_cfgImmLegal : ∀ imm : Byte, cfgImmLegal imm = true → imm = 0x00 ∨ imm = 0x01 := by
  decide

/-! ### The obligations -/

/-- Settles O8: every operation answers a next state (`exec_eq`), and so do an illegal word, a reset and an idle step. -/
theorem everyStepAnswersANextState : Obligations.EveryStepAnswersANextState :=
  ⟨exists_executeWord, exists_step⟩

/-- Settles O9: the step takes the word from the host and executes what it decodes to. -/
theorem stepRunsTheDecodedInstruction : Obligations.StepRunsTheDecodedInstruction :=
  fun _ _ _ _ => step_of_decode

/-- Settles O11: a reset answers the reset state with the capacity and the later events kept. -/
theorem resetStepLeavesTheResetState : Obligations.ResetStepLeavesTheResetState :=
  fun _ _ hhost => ⟨_, step_of_reset hhost, rfl, rfl, rfl, rfl, rfl, rfl, rfl, rfl, rfl⟩

/-- Settles O12: with no event to take the step holds the state. -/
theorem idleStepHoldsTheState : Obligations.IdleStepHoldsTheState :=
  fun _ => step_of_nil

/-- Settles O13: by induction on the list; each operation leaves the words behind it in the host's list. -/
theorem issuedWordsExecuteInOrder : Obligations.IssuedWordsExecuteInOrder :=
  fun is s his => steps_issueAll is his s

/-- Settles O14: a word that decodes is below 2 ^ 12, so it is placed at the head of the host's list. -/
theorem placedWordRunsNext : Obligations.PlacedWordRunsNext := by
  intro s nbits w i h
  obtain ⟨hw, hdecode⟩ := decodeTableWord_eq_some_iff.mp h
  rw [State.withFetchWord, issueNext_of_lt hw]
  exact ⟨step_of_decode rfl hdecode, rfl, rfl⟩

/-- Settles O15: the values are those of `resetWith`, and `reset` is it for the opaque capacity. -/
theorem resetValues : Obligations.ResetValues :=
  fun _ => ⟨rfl, rfl⟩

/-- Settles O16: the invariants hold at reset for every capacity (`inv_resetWith`). -/
theorem resetSatisfiesTheInvariants : Obligations.ResetSatisfiesTheInvariants :=
  inv_resetWith Config.bufsz

/-- Settles O51: by the write sets only a `CFG` writes `SELFCHK`, and there are two legal words of it. -/
theorem selfCheckBitChangesOnlyByCfgOrReset : Obligations.SelfCheckBitChangesOnlyByCfgOrReset := by
  intro s t h hne
  obtain ⟨rest, i, hhost, hi, hexec⟩ | ⟨rest, hhost, rfl⟩ :=
    event_of_change (f := State.selfchk) (fun _ _ => rfl) (fun _ => rfl) h hne
  · obtain ⟨-, -, -, -, hself, -⟩ := writeSetsOfTheOperations i _ t hexec
    cases i with
    | cfg imm =>
      obtain rfl | rfl := eq_of_cfgImmLegal imm hi
      · cases hexec
        exact .inl ⟨rest, hhost, rfl⟩
      · cases hexec
        exact .inr (.inl ⟨rest, hhost, rfl⟩)
    | clr | abs _ | fin | csum | rstb | push _ | pop | enc | dec => exact absurd (hself (.inl rfl)) hne
  · exact .inr (.inr ⟨rest, hhost, rfl⟩)

/-- Settles O52: by the write sets only a successful `POP` writes `DOUT`. -/
theorem dataOutChangesOnlyByPopOrReset : Obligations.DataOutChangesOnlyByPopOrReset := by
  intro s t h hne
  obtain ⟨rest, i, hhost, hi, hexec⟩ | ⟨rest, hhost, rfl⟩ :=
    event_of_change (f := State.dout) (fun _ _ => rfl) (fun _ => rfl) h hne
  · obtain ⟨-, -, -, hdout, -⟩ := writeSetsOfTheOperations i _ t hexec
    by_cases hpop : i = .pop ∧ t.err = 0
    · obtain ⟨rfl, herr⟩ := hpop
      obtain ⟨hv, rfl⟩ := success_of_exec hexec herr
      obtain ⟨head, tail, hbuf⟩ := List.exists_cons_of_ne_nil (verdict_pop_eq_ok_iff.mp hv)
      rw [State.setHost_buf] at hbuf
      exact .inl ⟨rest, hhost, by simp [effect, hbuf]⟩
    · exact absurd (hdout (not_and_or.mp hpop)) hne
  · exact .inr ⟨rest, hhost, rfl⟩

end Sys2Proof.Proofs
end

section
/-! SUPPORT. The bit-serial form of the checksum (spec/40_checksum_engine.md R61 point 4): four of its steps are one
nibble step of the table, because both are linear over exclusive or. -/

namespace Sys2Proof.Proofs

open Sys2Proof.Machine Sys2Proof.Spec

/-- The shift register after the four bits of a nibble, most significant first. -/
def serialNibble (acc : Word16) (n : Nibble) : Word16 := ([3, 2, 1, 0].map n.getLsbD).foldl bitStep acc

/-- What a step takes in: the generator polynomial where the bit shifted out and the input bit differ. -/
def feedback (differ : Bool) : Word16 := if differ then 0x1021 else 0x0000

theorem feedback_xor : ∀ p q : Bool, feedback (p ^^ q) = feedback p ^^^ feedback q := by decide

theorem bitStep_eq (acc : Word16) (bit : Bool) : bitStep acc bit = acc <<< 1 ^^^ feedback (acc.msb ^^ bit) := by
  cases h : acc.msb ^^ bit <;> simp [bitStep, feedback, h]

/-- A step of the register is linear over exclusive or in the register and the input bit together. -/
theorem bitStep_xor (a a' : Word16) (bit bit' : Bool) :
    bitStep (a ^^^ a') (bit ^^ bit') = bitStep a bit ^^^ bitStep a' bit' := by
  have hdiffer : ((a.msb ^^ a'.msb) ^^ (bit ^^ bit')) = ((a.msb ^^ bit) ^^ (a'.msb ^^ bit')) := by
    simp only [Bool.xor_assoc, Bool.xor_left_comm]
  rw [bitStep_eq, bitStep_eq, bitStep_eq, BitVec.msb_xor, hdiffer, feedback_xor, BitVec.shiftLeft_xor_distrib]
  ac_rfl

theorem serialNibble_xor (a a' : Word16) (n n' : Nibble) :
    serialNibble (a ^^^ a') (n ^^^ n') = serialNibble a n ^^^ serialNibble a' n' := by
  simp only [serialNibble, List.map_cons, List.map_nil, List.foldl_cons, List.foldl_nil, BitVec.getLsbD_xor,
    bitStep_xor]

/-- While the top nibble is 0, zero bits only shift the register. -/
theorem serialNibble_zero {a : Word16} (h : a.extractLsb' 12 4 = 0#4) : serialNibble a 0#4 = a <<< 4 := by
  have hshift (k : Nat) (hk : k < 4) : bitStep (a <<< k) false = a <<< (k + 1) := by
    have hmsb : (a <<< k).msb = false := by
      have hbit := congrArg (BitVec.getLsbD · (3 - k)) h
      simp only [BitVec.getLsbD_extractLsb', show 3 - k < 4 by omega, show 12 + (3 - k) = 15 - k by omega,
        decide_true, Bool.true_and, BitVec.getLsbD_zero] at hbit
      rw [BitVec.msb_eq_getLsbD_last, BitVec.getLsbD_shiftLeft, hbit, Bool.and_false]
    rw [bitStep_eq, hmsb, BitVec.shiftLeft_add]
    exact BitVec.xor_zero
  calc serialNibble a 0#4
      = bitStep (bitStep (bitStep (bitStep (a <<< 0) false) false) false) false := by simp [serialNibble]
    _ = a <<< 4 := by
      rw [hshift 0 (by decide), hshift 1 (by decide), hshift 2 (by decide), hshift 3 (by decide)]

/-- The accumulator's top nibble alone, with the input nibble, takes in the table's entry. -/
theorem serialNibble_top : ∀ t n : Nibble, serialNibble (t.setWidth 16 <<< 12) n = tableEntry (t ^^^ n) := by
  decide

/-- The register is its top nibble exclusive-or the rest: the one takes in the table's entry, the other shifts. -/
theorem serialNibble_eq_crcNibble (acc : Word16) (n : Nibble) : serialNibble acc n = crcNibble acc n := by
  obtain ⟨top, htop⟩ : ∃ top, top = acc.extractLsb' 12 4 := ⟨_, rfl⟩
  have hrest : (acc ^^^ top.setWidth 16 <<< 12).extractLsb' 12 4 = 0#4 := by
    ext i hi
    simp [htop, hi, show 12 + i < 16 by omega]
  have hshift : (top.setWidth 16 <<< 12 : Word16) <<< 4 = 0#16 := by
    rw [← BitVec.shiftLeft_add]
    exact BitVec.shiftLeft_eq_zero (by decide)
  calc serialNibble acc n
      = serialNibble (top.setWidth 16 <<< 12 ^^^ (acc ^^^ top.setWidth 16 <<< 12)) (n ^^^ 0#4) := by
        rw [BitVec.xor_zero, BitVec.xor_comm acc, ← BitVec.xor_assoc, BitVec.xor_self, BitVec.zero_xor]
    _ = tableEntry (top ^^^ n) ^^^ (acc ^^^ top.setWidth 16 <<< 12) <<< 4 := by
        rw [serialNibble_xor, serialNibble_top, serialNibble_zero hrest]
    _ = crcNibble acc n := by
        rw [BitVec.shiftLeft_xor_distrib, hshift, crcNibble_eq, ← htop, BitVec.xor_zero, BitVec.xor_comm]

theorem foldl_bitsOf (acc : Word16) (b : Byte) : (bitsOf b).foldl bitStep acc = crcByte acc b := by
  have hbits : bitsOf b = [3, 2, 1, 0].map (highNibble b).getLsbD ++ [3, 2, 1, 0].map (lowNibble b).getLsbD := by
    simp [bitsOf, highNibble, lowNibble]
  rw [hbits, List.foldl_append, crcByte, ← serialNibble_eq_crcNibble, ← serialNibble_eq_crcNibble]
  rfl

theorem foldl_bitStep_eq_absorb (acc : Word16) (p : List Byte) :
    (p.flatMap bitsOf).foldl bitStep acc = absorb acc p := by
  induction p generalizing acc with
  | nil => rfl
  | cons b p ih => rw [List.flatMap_cons, List.foldl_append, foldl_bitsOf, ih, absorb_cons]

/-- Settles O21: byte by byte, eight bits are two nibble steps (`serialNibble_eq_crcNibble`). -/
theorem nibbleTableIsBitSerialDivision : Obligations.NibbleTableIsBitSerialDivision :=
  fun p => (foldl_bitStep_eq_absorb 0 p).symm

/-- Settles O23: `adj` gives no reserved byte, and the two sequences are evaluated. -/
theorem checksumNeverHoldsAReservedByte : Obligations.ChecksumNeverHoldsAReservedByte :=
  ⟨rfl, fun p => ⟨checksum_fst_not_reserved p, checksum_snd_not_reserved p⟩, rfl, rfl, rfl, rfl⟩

end Sys2Proof.Proofs
end

section
/-! SUPPORT. The buffer and the frame codec, continued (spec/41_buffer_and_config.md, spec/42_frame_encoder.md,
spec/43_frame_decoder.md): `PUSH` and `CFG` at their tests, runs of `POP`, and `decode` on a buffer written from its tail. -/

namespace Sys2Proof.Proofs

open Sys2Proof.Machine Sys2Proof.Spec

variable {s t : Machine.State}

/-! ### The buffer -/

/-- The test of `PUSH` (R71). -/
theorem isFull_iff (size : BufSize) (n : Nat) : isFull size n = true ↔ ∃ cap h, size = .bounded cap h ∧ n = cap := by
  cases size with
  | unbounded => simp
  | bounded cap h => simp [h]

theorem exec_push_of_room (b : Byte) (h : isFull s.bufsz s.len = false) :
    exec (.push b) s = .next { s with buf := s.buf ++ [b], err := 0 } := by
  obtain ⟨hfull, -⟩ | ⟨-, e⟩ := execPush_cases b s
  · cases h.symm.trans hfull
  · exact e

theorem exec_push_of_full (b : Byte) (h : isFull s.bufsz s.len = true) :
    exec (.push b) s = .next { s with err := 2 } := by
  obtain ⟨-, e⟩ | ⟨hroom, -⟩ := execPush_cases b s
  · exact e
  · cases h.symm.trans hroom

/-- Pops deliver the bytes one by one, the head first (R72). -/
theorem execAll_pops {k : Nat} {b : Byte} (h : byteAt s.buf k = some b) :
    execAll (List.replicate (k + 1) .pop) s = .next { s with dout := b, buf := s.buf.drop (k + 1), err := 0 } := by
  induction k generalizing s with
  | zero =>
    cases hbuf : s.buf with
    | nil => simp [hbuf] at h
    | cons head rest =>
      rw [hbuf, byteAt_cons_zero] at h
      cases h
      exact execAll_singleton (exec_pop_of_cons hbuf)
  | succ k ih =>
    cases hbuf : s.buf with
    | nil => simp [hbuf] at h
    | cons head rest =>
      rw [hbuf, byteAt_cons_succ] at h
      rw [List.replicate_succ, execAll_cons (exec_pop_of_cons hbuf), ih h]
      rfl

/-! ### The codec -/

theorem decodeFrame_of_frame {p : List Byte} (hp : SevenBit p) (selfchk : Bool) :
    decodeFrame (frame p) selfchk = .ok p :=
  (encodeThenDecodeGivesThePayloadBack.2 _ _ _).mpr (encodePayload_eq_ok_iff.mpr ⟨hp, rfl⟩)

theorem decodeFrame_of_not_terminated {cand : List Byte} {high low last : Byte} (hlast : last ≠ terminator)
    (selfchk : Bool) : decodeFrame (cand ++ [high, low, last]) selfchk = .error .malformedTerminator := by
  simp [decodeFrame, hlast]

theorem decodeFrame_of_mismatch {cand : List Byte} {high low : Byte} (hsum : checksum cand ≠ (high, low))
    (selfchk : Bool) : decodeFrame (cand ++ [high, low, terminator]) selfchk = .error .checksumMismatch := by
  have hpair (hhigh : (checksum cand).1 = high) : (checksum cand).2 ≠ low := fun hlow => hsum (Prod.ext hhigh hlow)
  simp +contextual [decodeFrame, hpair]

/-- A terminated buffer passes check 2, whatever fails after it. -/
theorem errCode_verdict_dec_ne_term (size : BufSize) {b : Buffer} (hterm : endsInTerminator b = true) :
    errCode (verdict size b .dec) ≠ errCode .term := by
  simp only [verdict, hterm]
  split_ifs <;> simp_all [errCode]

theorem candidate_concat (front : Buffer) (last : Byte) :
    candidate (front ++ [last]) = front.take (front.length - 2) := by
  rw [candidate, List.length_append, List.length_singleton, List.take_append_of_le_length (by omega)]
  rfl

/-- A `CFG` to which no word decodes changes `ERR` alone (R73, notes/assumptions/7.md). -/
theorem exec_cfg_of_illegal {imm : Byte} (h : cfgImmLegal imm = false) :
    exec (.cfg imm) s = .next { s with err := 1 } := by
  obtain ⟨hlegal, -⟩ | ⟨-, e⟩ := execCfg_cases imm s
  · cases h.symm.trans hlegal
  · exact e

/-! ### The obligations -/

/-- Settles O30: the test of `PUSH` is `LEN = BUFSZ` (`isFull_iff`). -/
theorem pushAppendsOrOverflows : Obligations.PushAppendsOrOverflows := by
  refine ⟨fun s b hroom => exec_push_of_room b ?_, fun s b cap h hsize hlen => exec_push_of_full b ?_⟩
  · rw [← Bool.not_eq_true, isFull_iff]
    rintro ⟨cap, h, hsize, hlen⟩
    exact hroom cap h hsize hlen
  · exact (isFull_iff _ _).mpr ⟨cap, h, hsize, hlen⟩

/-- Settles O32: the two legal immediates are evaluated, and the operand test refuses the others. -/
theorem cfgWritesTheSelfCheckBit : Obligations.CfgWritesTheSelfCheckBit := by
  refine ⟨fun _ => rfl, fun _ => rfl, fun s imm himm => ?_⟩
  exact exec_cfg_of_illegal ((cfgImmLegal_eq_false_iff imm).mpr himm)

/-- Settles O33: by induction on the number of pops (`execAll_pops`). -/
theorem popsDeliverTheBytesInOrder : Obligations.PopsDeliverTheBytesInOrder := by
  intro s k hk
  have hbyte : byteAt s.buf k = some s.buf[k] := List.getElem?_eq_getElem hk
  exact ⟨_, hbyte, execAll_pops hbyte⟩

/-- Settles O36: `CSUM` leaves the buffer it reads; `ENC` leaves a frame, which as a payload is 7-bit exactly when its
checksum bytes are. -/
theorem csumIsIdempotentAndEncIsNot : Obligations.CsumIsIdempotentAndEncIsNot := by
  refine ⟨fun s t h => ?_, fun s t h herr hhigh => ?_, fun s t h herr hckh hckl hfit => ?_⟩
  · cases h
    rfl
  · obtain ⟨-, rfl⟩ := success_of_exec h herr
    obtain hhigh | hhigh := hhigh
    · exact exec_enc_of_nonascii (by simp [effect]) hhigh
    · exact exec_enc_of_nonascii (by simp [effect]) hhigh
  · obtain ⟨hv, rfl⟩ := success_of_exec h herr
    obtain ⟨hascii, -⟩ := verdict_enc_eq_ok_iff.mp hv
    have hframe : SevenBit (s.buf ++ [(checksum s.buf).1, (checksum s.buf).2, terminator]) := by
      simp only [SevenBit, List.forall_mem_append, List.forall_mem_cons]
      exact ⟨hascii, hckh, hckl, by decide, nofun⟩
    exact ⟨_, exec_enc_of_fits hframe hfit, rfl, rfl, isChecksum_checksum _⟩

/-- Settles O39: the two answers of `decode` are the two ways in which `DEC` can end (`exec_dec_cases`). -/
theorem decComputesTheDecodeFunction : Obligations.DecComputesTheDecodeFunction := by
  intro s
  obtain ⟨t, ht, ⟨q, hq, herr, hbuf⟩ | ⟨e, he, herr, hbuf⟩⟩ := exec_dec_cases s
  · exact ⟨t, ht, by rw [hq]; exact ⟨hbuf, herr⟩⟩
  · exact ⟨t, ht, by rw [he]; exact ⟨hbuf, herr⟩⟩

/-- Settles O41: `decode` compares the received pair with the one checksum of the candidate, which is never reserved; one
changed byte changes the raw checksum (`crcRaw_ne_of_differInOneByte`). -/
theorem tamperDetection : Obligations.TamperDetection := by
  refine ⟨fun selfchk => ⟨?_, ?_⟩, ?_⟩
  · exact decodeFrame_of_frame (p := [0x47, 0x4D]) (by unfold SevenBit; decide) selfchk
  · exact decodeFrame_of_frame (p := [0x22, 0x71]) (by unfold SevenBit; decide) selfchk
  intro p high low selfchk hck
  have hsum : checksum p = (high, low) := (isChecksum_iff.mp hck).symm
  refine ⟨fun x hx => ?_, fun x hx => ?_, fun q hq => ?_, fun x y hxy => ?_, fun x hx => ?_⟩
  · exact decodeFrame_of_mismatch (by simp [hsum, hx.symm]) selfchk
  · exact decodeFrame_of_mismatch (by simp [hsum, hx.symm]) selfchk
  · refine ⟨(crcRaw_ne_of_differInOneByte hq).symm, ?_⟩
    by_cases h : checksum q = (high, low)
    · exact .inr (isChecksum_iff.mpr h.symm)
    · exact .inl (decodeFrame_of_mismatch h selfchk)
  · refine decodeFrame_of_mismatch (fun h => ?_) selfchk
    have hhigh := checksum_fst_not_reserved p
    have hlow := checksum_snd_not_reserved p
    rw [h] at hhigh hlow
    exact hxy.elim hhigh hlow
  · exact decodeFrame_of_not_terminated hx selfchk

/-- Settles O42: the pushed bytes stand in the buffer, which then ends in 0x0D; the candidate is a part of the bytes before
it. -/
theorem streamFedBufferIsTerminated : Obligations.StreamFedBufferIsTerminated := by
  intro s front hfront hfit
  have hload := execAll_load_append (s := s) (p := front ++ [0x0D]) [.dec] (by simpa using hfit)
  refine ⟨_, hload.trans (execAll_singleton (exec_eq .dec _)), ?_, ?_⟩
  · exact errCode_verdict_dec_ne_term _ (endsInTerminator_concat front 0x0D)
  · rw [candidate_concat]
    exact fun hmem => hfront (List.mem_of_mem_take hmem)

end Sys2Proof.Proofs
end

section
/-! SUPPORT. One exchange at a time (spec/70_reset_and_hazards.md R126): the moves of the dutiful host by the operation they
issue, what a run of it leaves in `BUF`, and a whole exchange. -/

namespace Sys2Proof.Proofs

open Sys2Proof.Machine Sys2Proof.Spec

variable {size : BufSize} {l l' : Ledger} {s t : Machine.State} {f g : Nat} {i : Instr} {m : HostMove}

/-! ### Moves -/

theorem permits_encode (hi : i.wellFormed = true) (l : Ledger) (len f : Nat) :
    l.permits len (.command f (encode i)) = l.permitsOp len f i := by
  simp [Ledger.permits, decode_encode hi]

theorem record_of_decode {w : CommandWord} (hw : decode w = some i) (l : Ledger) (f : Nat) :
    l.record (.command f w) = l.recordOp f i := by
  simp [Ledger.record, hw]

theorem conductMove_of_not_permits (h : l.permits s.len m = false) : conductMove l s m = none := by
  rw [Option.eq_none_iff_forall_ne_some]
  rintro ⟨l', t⟩ hsome
  exact ne_true_of_eq_false h (conductMove_eq_some.mp hsome).1

theorem conductMove_encode_of_not_permitsOp (hi : i.wellFormed = true) (h : l.permitsOp s.len f i = false) :
    conductMove l s (.command f (encode i)) = none :=
  conductMove_of_not_permits ((permits_encode hi l s.len f).trans h)

theorem not_serves (hf : l.frame = some f) (hg : g ≠ f) : l.serves g = false := by
  rw [← Bool.not_eq_true, serves_iff]
  exact fun h => hg (h f hf).symm

/-- A move that the host has is the operation it issues. -/
theorem conduct_cons_of_exec (hi : i.wellFormed = true) (hhost : s.host = [])
    (hpermits : l.permitsOp s.len f i = true) (hexec : exec i s = .next t) (rest : List HostMove) :
    conduct (.command f (encode i) :: rest) l s = conduct rest (l.recordOp f i) t := by
  have hstep : step (s.setHost [HostEvent.command (encode i)]) = .next t := by
    rw [step_of_decode rfl (decode_encode hi), ← hexec]
    exact congrArg (exec i) (by rw [← hhost]; rfl)
  have hmove : conductMove l s (.command f (encode i)) = some (l.recordOp f i, t) :=
    conductMove_eq_some.mpr ⟨(permits_encode hi l s.len f).trans hpermits, hstep,
      (record_of_decode (decode_encode hi) l f).symm⟩
  rw [conduct, hmove]

theorem conduct_append {before : List HostMove} (h : conduct before l s = some (l', t)) (rest : List HostMove) :
    conduct (before ++ rest) l s = conduct rest l' t := by
  induction before generalizing l s with
  | nil =>
    cases h
    rfl
  | cons m before ih =>
    obtain ⟨k, u, hmove, hrest⟩ := conduct_cons_eq_some.mp h
    rw [List.cons_append, conduct, hmove]
    exact ih hrest

/-! ### A whole exchange -/

/-- With room for all of them, the bytes of the frame that `BUF` serves can be pushed. -/
theorem exists_conduct_pushes (p : List Byte) (hframe : l.frame = some f) (hopen : l.complete = false)
    (hhost : s.host = []) (herr : s.err = 0) (hfit : Fits s.bufsz (s.buf.length + p.length)) :
    ∃ l', l'.frame = some f ∧ conduct (movesFor f (p.map .push)) l s = some (l', s.setBuf (s.buf ++ p)) := by
  induction p generalizing l s with
  | nil => exact ⟨l, hframe, by rw [List.append_nil]; rfl⟩
  | cons b p ih =>
    have hroom : isFull s.bufsz s.len = false :=
      ((fits_succ_iff _ _).mp (fits_of_le hfit (by simp [State.len]))).2
    have hexec : exec (.push b) s = .next (s.setBuf (s.buf ++ [b])) := by
      rw [exec_push_of_room b hroom, ← herr]
      rfl
    have hserves : l.serves f = true := by simp [Ledger.serves, hframe]
    have hpermits : l.permitsOp s.len f (.push b) = true := by simp [Ledger.permitsOp, hserves, hopen]
    obtain ⟨l', hl', hrest⟩ := ih (l := l.recordOp f (.push b)) (s := s.setBuf (s.buf ++ [b])) rfl
      (by simp [Ledger.recordOp, hopen]) hhost herr (fits_of_le hfit (by simp; omega))
    refine ⟨l', hl', (conduct_cons_of_exec rfl hhost hpermits hexec _).trans (hrest.trans ?_)⟩
    simp [State.setBuf]

/-- A frame that may begin can be loaded and then encoded or decoded. -/
theorem exists_conduct_load {last : Instr} (hlast : last = .enc ∨ last = .dec) {p : List Byte}
    (hbegin : l.permitsOp s.len f .rstb = true) (hhost : s.host = []) (hfit : Fits s.bufsz p.length)
    (hexec : exec last (ok (s.setBuf p)) = .next t) :
    ∃ l', l'.frame = some f ∧ conduct (movesFor f (.rstb :: p.map .push ++ [last])) l s = some (l', t) := by
  obtain ⟨k, hk, hload⟩ := exists_conduct_pushes (l := l.recordOp f .rstb) (s := ok (s.setBuf [])) p rfl rfl hhost rfl
    (by simpa using hfit)
  have hserves : k.serves f = true := by simp [Ledger.serves, hk]
  have hend : last.wellFormed = true ∧ k.permitsOp (ok (s.setBuf p)).len f last = true ∧
      (k.recordOp f last).frame = some f := by
    obtain rfl | rfl := hlast <;> exact ⟨rfl, hserves, rfl⟩
  obtain ⟨hwf, hpermits, hl'⟩ := hend
  have hfinish : conduct [.command f (encode last)] k (ok (s.setBuf p)) = some (k.recordOp f last, t) :=
    conduct_cons_of_exec (s := ok (s.setBuf p)) hwf hhost hpermits hexec []
  refine ⟨k.recordOp f last, hl', ?_⟩
  rw [movesFor, List.cons_append, List.map_cons, List.map_append,
    conduct_cons_of_exec (t := ok (s.setBuf [])) rfl hhost hbegin rfl]
  exact (conduct_append hload _).trans hfinish

/-- The frame that `BUF` serves can be popped, byte by byte. -/
theorem exists_conduct_pops (n : Nat) (hframe : l.frame = some f) (hhost : s.host = []) :
    ∃ l' t, conduct (movesFor f (List.replicate n .pop)) l s = some (l', t) ∧ t.buf = s.buf.drop n ∧
      t.host = [] ∧ t.bufsz = s.bufsz ∧ t.selfchk = s.selfchk := by
  induction n generalizing l s with
  | zero => exact ⟨l, s, rfl, rfl, hhost, rfl, rfl⟩
  | succ n ih =>
    have hpermits : l.permitsOp s.len f .pop = true := by simp [Ledger.permitsOp, Ledger.serves, hframe]
    obtain ⟨l', t, hrest, hbuf, hkept⟩ := ih (l := l.recordOp f .pop)
      (s := { s with dout := s.buf.headD s.dout, buf := s.buf.tail, err := if s.buf = [] then 3 else 0 }) rfl hhost
    refine ⟨l', t, (conduct_cons_of_exec rfl hhost hpermits (exec_pop s) _).trans hrest, ?_, hkept⟩
    rw [hbuf, List.drop_tail]

/-- Settles O57: the request is loaded and encoded, its frame popped to the last byte, so that the response may begin; `DEC`
then gives what `decode` does (`exec_dec_cases`). -/
theorem oneExchangeRunsToItsEnd : Obligations.OneExchangeRunsToItsEnd := by
  intro size p raw hascii hreq hresp
  have henc := exec_enc_of_fits (s := ok ((State.resetWith size).setBuf p)) hascii hreq
  obtain ⟨l₁, hl₁, hrequest⟩ := exists_conduct_load (f := 1) (l := Ledger.free) (.inl rfl) rfl rfl
    (fits_of_le hreq (Nat.le_add_right _ _)) henc
  obtain ⟨l₂, s₂, hdrain, hbuf, hhost, hsize, hself⟩ := exists_conduct_pops (p.length + 3) hl₁
    (s := ok (appendTrailer (latchChecksum p (ok ((State.resetWith size).setBuf p))))) rfl
  have hempty : s₂.len = 0 := by
    simp [State.len, hbuf]
  obtain ⟨t, ht, hcases⟩ := exec_dec_cases (ok (s₂.setBuf raw))
  have hbegin : l₂.permitsOp s₂.len 2 .rstb = true := by simp [Ledger.permitsOp, hempty]
  obtain ⟨l₃, -, hresponse⟩ := exists_conduct_load (.inr rfl) hbegin hhost (by rw [hsize]; exact hresp) ht
  refine ⟨l₃, t, ?_, ?_⟩
  · rw [movesFor, List.map_append, List.append_assoc]
    exact (conduct_append hrequest _).trans ((conduct_append hdrain _).trans hresponse)
  · have hself' : (ok (s₂.setBuf raw)).selfchk = false := hself
    rw [hself'] at hcases
    obtain ⟨q, hq, herr, hbuf⟩ | ⟨e, he, herr, hbuf⟩ := hcases
    · rw [show decodeFrame raw false = _ from hq]; exact ⟨hbuf, herr⟩
    · rw [show decodeFrame raw false = _ from he]; exact ⟨hbuf, herr⟩

/-- Settles O55: the ledger refuses each of the moves, and the step on a word is that of its operation whatever the frame. -/
theorem hostHasNoMoveThatMixesTwoFrames : Obligations.HostHasNoMoveThatMixesTwoFrames := by
  refine ⟨fun l s f g hf hg => ?_, fun l s g b hcomplete => ?_, fun s g i hi => ?_, fun s g b hfit => ?_⟩
  · have hserves := not_serves hf hg
    refine ⟨fun b => conductMove_encode_of_not_permitsOp rfl ?_, ?_, fun hbuf => ?_⟩
    · simp [Ledger.permitsOp, hserves]
    · simp only [List.forall_mem_cons]
      exact ⟨conductMove_encode_of_not_permitsOp rfl hserves, conductMove_encode_of_not_permitsOp rfl hserves,
        conductMove_encode_of_not_permitsOp rfl hserves, nofun⟩
    · exact conductMove_encode_of_not_permitsOp rfl (by simp [Ledger.permitsOp, hserves, State.len, hbuf])
  · exact conductMove_encode_of_not_permitsOp rfl (by simp [Ledger.permitsOp, hcomplete])
  · exact step_of_decode rfl (decode_encode hi)
  · have hroom : isFull s.bufsz s.len = false := ((fits_succ_iff _ _).mp hfit).2
    exact (step_of_decode rfl (decode_encode rfl)).trans (exec_push_of_room (s := s.setHost []) b hroom)

end Sys2Proof.Proofs
end

section
/-! SUPPORT. One frame in `BUF` (spec/70_reset_and_hazards.md R126): what holds of the moves behind the last `RSTB` or reset,
kept by every move of the dutiful host. -/

namespace Sys2Proof.Proofs

open Sys2Proof.Machine Sys2Proof.Spec

/-! ### What an operation leaves in `BUF` depends on `BUF` and `BUFSZ` alone -/

theorem result_buf_congr (i : Instr) {s s' : Machine.State} (hbuf : s.buf = s'.buf) (hsize : s.bufsz = s'.bufsz) :
    (result i s).buf = (result i s').buf := by
  have hwritten (e : ErrKind) : (written s i e).buf = (written s' i e).buf := by
    unfold written
    split_ifs
    · cases i <;> simp [effect, hbuf]
    · exact hbuf
    · exact hbuf
  rw [result, result, hbuf, hsize]
  exact hwritten _

theorem execAll_concat {is : List Instr} {s t : Machine.State} (h : execAll is s = .next t) (i : Instr) :
    execAll (is ++ [i]) s = .next (result i t) := by
  induction is generalizing s with
  | nil =>
    cases h
    exact execAll_singleton (exec_eq i _)
  | cons j is ih =>
    rw [execAll_cons (exec_eq j s)] at h
    rw [List.cons_append, execAll_cons (exec_eq j s), ih h]

theorem bufsz_of_execAll {is : List Instr} {s t : Machine.State} (h : execAll is s = .next t) : t.bufsz = s.bufsz := by
  induction is generalizing s with
  | nil =>
    cases h
    rfl
  | cons j is ih =>
    rw [execAll_cons (exec_eq j s)] at h
    exact (ih h).trans (bufsz_host_of_exec (exec_eq j s)).1

/-! ### The invariant -/

/-- After an `ENC` or `DEC` comes no `PUSH`. -/
def NoPushBehind (i j : Instr) : Prop := i = .enc ∨ i = .dec → ∀ b, j ≠ .push b

/-- The moves `before` end in the last `RSTB` or reset, and `span` comes behind it: what `BUF` holds is what the operations of
the span leave, all of them issued for the frame that the ledger names. -/
structure OneFrame (size : BufSize) (before span : List HostMove) (l : Ledger) (s : Machine.State) : Prop where
  reachable : Reachable size s
  emptied : ∀ m, before.getLast? = some m → emptiesBuf m = true
  notEmptied : ∀ m ∈ span, emptiesBuf m = false
  begun : ∀ g w, before.getLast? = some (.command g w) → l.frame = some g
  owned : ∀ g w i, .command g w ∈ span → decode w = some i → mayWriteBuf i = true → l.frame = some g
  ledgerOps : l.ops = bufOps span
  ordered : (bufOps span).Pairwise NoPushBehind
  completed : ∀ i ∈ bufOps span, i = .enc ∨ i = .dec → l.complete = true
  alone : ∀ s₀ : Machine.State, s₀.bufsz = size → ∃ t, execAll (.rstb :: bufOps span) s₀ = .next t ∧ t.buf = s.buf

variable {size : BufSize} {before span : List HostMove} {l l' : Ledger} {s t : Machine.State} {m : HostMove}

theorem bufOps_concat (span : List HostMove) (m : HostMove) : bufOps (span ++ [m]) = bufOps span ++ bufOps [m] :=
  List.filterMap_append

/-- A move gives the operation on `BUF` that it issues, if it issues one. -/
theorem bufOps_command (f : Nat) (w : CommandWord) : bufOps [.command f w] = ((decode w).filter mayWriteBuf).toList := by
  cases h : (decode w).filter mayWriteBuf <;> simp [bufOps, h]

theorem bufOps_of_decode {w : CommandWord} {i : Instr} (hw : decode w = some i) (hi : mayWriteBuf i = true) (f : Nat) :
    bufOps [.command f w] = [i] := by
  simp [bufOps_command, hw, Option.filter_some, hi]

theorem bufOps_eq_nil_of_decode {w : CommandWord} {i : Instr} (hw : decode w = some i) (hi : mayWriteBuf i = false)
    (f : Nat) : bufOps [.command f w] = [] := by
  simp [bufOps_command, hw, hi]

theorem bufOps_eq_nil_of_illegal {w : CommandWord} (hw : decode w = none) (f : Nat) : bufOps [.command f w] = [] := by
  simp [bufOps_command, hw]

/-- The ledger after an operation on `BUF` other than `RSTB`, and what its permission said. -/
theorem recordOp_of_permitsOp {len f : Nat} {i : Instr} (hi : mayWriteBuf i = true) (hrstb : i ≠ .rstb)
    (hpermits : l.permitsOp len f i = true) :
    (∀ g, l.frame = some g → g = f) ∧ (l.complete = true → ∀ b, i ≠ .push b) ∧
    (l.recordOp f i).frame = some f ∧ (l.recordOp f i).ops = l.ops ++ [i] ∧
    (l.complete = true ∨ i = .enc ∨ i = .dec → (l.recordOp f i).complete = true) := by
  rw [← serves_iff]
  cases i with
  | push b =>
    obtain ⟨hserves, hopen⟩ := (Bool.and_eq_true _ _).mp hpermits
    simp_all [Ledger.recordOp]
  | pop | enc | dec => 
    have hserves : l.serves f = true := hpermits
    simp [Ledger.recordOp, hserves]
  | rstb => exact absurd rfl hrstb
  | clr | abs _ | fin | csum | cfg _ => cases hi

theorem recordOp_of_not_mayWriteBuf {f : Nat} {i : Instr} (hi : mayWriteBuf i = false) : l.recordOp f i = l := by
  cases i with
  | clr | abs _ | fin | csum | cfg _ => rfl
  | rstb | push _ | pop | enc | dec => cases hi

/-! ### The moves keep it -/

/-- Where `BUF` is empty and the ledger lists no operation, a span begins. -/
theorem oneFrame_nil (hreach : Reachable size s) (hbuf : s.buf = []) (hops : l.ops = [])
    (hlast : ∀ m, before.getLast? = some m → emptiesBuf m = true)
    (hbegun : ∀ g w, before.getLast? = some (.command g w) → l.frame = some g) : OneFrame size before [] l s where
  reachable := hreach
  emptied := hlast
  notEmptied := nofun
  begun := hbegun
  owned := nofun
  ledgerOps := hops
  ordered := .nil
  completed := nofun
  alone _ _ := ⟨_, rfl, hbuf.symm⟩

/-- A move that does not write `BUF` belongs to any span. -/
theorem OneFrame.skip (h : OneFrame size before span l s) (hreach : Reachable size t) (hempties : emptiesBuf m = false)
    (hops : bufOps [m] = []) (hbuf : t.buf = s.buf) : OneFrame size before (span ++ [m]) l t := by
  have hsame : bufOps (span ++ [m]) = bufOps span := by rw [bufOps_concat, hops, List.append_nil]
  refine ⟨hreach, h.emptied, ?_, h.begun, ?_, by rw [hsame, h.ledgerOps], by rw [hsame]; exact h.ordered,
    by rw [hsame]; exact h.completed, by rw [hsame, hbuf]; exact h.alone⟩
  · exact List.forall_mem_append.mpr ⟨h.notEmptied, List.forall_mem_singleton.mpr hempties⟩
  · intro g w i hmem hw hi
    obtain hmem | hmem := List.mem_append.mp hmem
    · exact h.owned g w i hmem hw hi
    · rw [← List.mem_singleton.mp hmem, bufOps_of_decode hw hi] at hops
      cases hops

/-- An operation on `BUF` that the host has for frame `f` is for the frame that `BUF` serves, and its effect on `BUF` is
the same after the operations alone. -/
theorem OneFrame.write {f : Nat} {w : CommandWord} {i : Instr} (h : OneFrame size before span l s)
    (hreach : Reachable size t) (hw : decode w = some i) (hi : mayWriteBuf i = true) (hrstb : i ≠ .rstb)
    (hpermits : l.permitsOp s.len f i = true) (hbuf : t.buf = (result i s).buf) :
    OneFrame size before (span ++ [.command f w]) (l.recordOp f i) t := by
  have hops : bufOps (span ++ [.command f w]) = bufOps span ++ [i] := by
    rw [bufOps_concat, bufOps_of_decode hw hi]
  obtain ⟨hsame, hopen, hframe, hrecord, hcomplete⟩ := recordOp_of_permitsOp hi hrstb hpermits
  refine ⟨hreach, h.emptied, ?_, ?_, ?_, by rw [hops, hrecord, h.ledgerOps], ?_, ?_, ?_⟩
  · refine List.forall_mem_append.mpr ⟨h.notEmptied, List.forall_mem_singleton.mpr ?_⟩
    simpa [emptiesBuf, hw] using hrstb
  · intro g v hlast
    rw [hframe, hsame g (h.begun g v hlast)]
  · intro g v j hmem hv hj
    obtain hmem | hmem := List.mem_append.mp hmem
    · rw [hframe, hsame g (h.owned g v j hmem hv hj)]
    · cases List.mem_singleton.mp hmem
      exact hframe
  · rw [hops]
    refine List.pairwise_append.mpr ⟨h.ordered, List.pairwise_singleton _ _, fun j hj k hk hdone b => ?_⟩
    cases List.mem_singleton.mp hk
    exact hopen (h.completed j hj hdone) b
  · rw [hops]
    refine List.forall_mem_append.mpr ⟨fun j hj hdone => hcomplete (.inl (h.completed j hj hdone)), ?_⟩
    exact List.forall_mem_singleton.mpr fun hdone => hcomplete (.inr hdone)
  · intro s₀ hs₀
    obtain ⟨u, hu, hubuf⟩ := h.alone s₀ hs₀
    have husize : u.bufsz = s.bufsz := by
      rw [bufsz_of_execAll hu, hs₀, (inv_of_reachable h.reachable).2]
    refine ⟨result i u, ?_, (result_buf_congr i hubuf husize).trans hbuf.symm⟩
    rw [hops, ← List.cons_append]
    exact execAll_concat hu i

/-- Every move of the dutiful host goes on with the span or begins another. -/
theorem OneFrame.conductMove (h : OneFrame size before span l s) (hmove : conductMove l s m = some (l', t)) :
    OneFrame size before (span ++ [m]) l' t ∨ OneFrame size (before ++ span ++ [m]) [] l' t := by
  obtain ⟨hpermits, hstep, rfl⟩ := conductMove_eq_some.mp hmove
  have hreach : Reachable size t := .step _ _ (.issue _ _ h.reachable) hstep
  cases m with
  | reset =>
    cases (step_of_reset rfl).symm.trans hstep
    exact .inr (oneFrame_nil hreach rfl rfl (by simp [emptiesBuf]) (by simp))
  | command f w =>
    cases hw : decode w with
    | none =>
      have hlegal := (decode_eq_none_iff w).mp hw
      cases ((step_of_command rfl).trans (executeWord_of_illegal hlegal _)).symm.trans hstep
      rw [Ledger.record, hw]
      exact .inl (h.skip hreach (by simp [emptiesBuf, hw]) (bufOps_eq_nil_of_illegal hw f) rfl)
    | some i =>
      have hexec : exec i (s.setHost []) = .next t :=
        (step_of_decode (s := s.setHost [.command w]) rfl hw).symm.trans hstep
      rw [record_of_decode hw]
      rw [Ledger.permits, hw] at hpermits
      by_cases hrstb : i = .rstb
      · subst hrstb
        cases hexec
        exact .inr (oneFrame_nil hreach rfl rfl (by simp [emptiesBuf, hw]) (by simp [Ledger.recordOp]))
      · cases hi : mayWriteBuf i with
        | true =>
          have hbuf : t.buf = (result i s).buf := by
            rw [eq_result_of_exec hexec, result_setHost]
            rfl
          exact .inl (h.write hreach hw hi hrstb hpermits hbuf)
        | false =>
          obtain ⟨-, -, hbuf, -⟩ := writeSetsOfTheOperations i _ t hexec
          rw [recordOp_of_not_mayWriteBuf hi]
          have hempties : emptiesBuf (.command f w) = false := by simpa [emptiesBuf, hw] using hrstb
          exact .inl (h.skip hreach hempties (bufOps_eq_nil_of_decode hw hi f) (hbuf (.inl hi)))

/-- And so every run does. -/
theorem OneFrame.conduct (h : OneFrame size before span l s) {moves : List HostMove}
    (hrun : conduct moves l s = some (l', t)) :
    ∃ before' span', before ++ span ++ moves = before' ++ span' ∧ OneFrame size before' span' l' t := by
  induction moves generalizing before span l s with
  | nil =>
    cases hrun
    exact ⟨before, span, by simp, h⟩
  | cons m moves ih =>
    obtain ⟨k, u, hmove, hrest⟩ := conduct_cons_eq_some.mp hrun
    obtain hnext | hnext := h.conductMove hmove
    · obtain ⟨before', span', heq, hend⟩ := ih hnext hrest
      exact ⟨before', span', by simpa using heq, hend⟩
    · obtain ⟨before', span', heq, hend⟩ := ih hnext hrest
      exact ⟨before', span', by simpa using heq, hend⟩

/-- A span in which nothing is issued for a frame has no operation on `BUF`. -/
theorem OneFrame.bufOps_eq_nil (h : OneFrame size before span l s) (hframe : l.frame = none) : bufOps span = [] := by
  rw [bufOps, List.filterMap_eq_nil_iff]
  intro m hm
  cases m with
  | reset => rfl
  | command g w =>
    refine Option.filter_eq_none_iff.mpr fun i hw hi => ?_
    cases hframe.symm.trans (h.owned g w i hm hw hi)

theorem oneFrame_reset (size : BufSize) : OneFrame size [] [] Ledger.free (State.resetWith size) :=
  oneFrame_nil .start rfl rfl nofun nofun

/-- Settles O56: reset begins a span, every move goes on with it or begins another (`OneFrame.conductMove`), and the frame is
the one that the ledger names at the end. -/
theorem bufHoldsOneFrameAlone : Obligations.BufHoldsOneFrameAlone := by
  intro size moves l s hrun
  obtain ⟨before, span, hmoves, h⟩ := (oneFrame_reset size).conduct hrun
  have hframe (f : Nat) (hf : l.frame = some f) : f = l.frame.getD 0 := by rw [hf]; rfl
  refine ⟨h.reachable, before, span, l.frame.getD 0, hmoves, h.emptied, h.notEmptied,
    fun g w hlast => hframe g (h.begun g w hlast), fun g w i hmem hw hi => hframe g (h.owned g w i hmem hw hi), ?_,
    hframe, h.bufOps_eq_nil, h.ledgerOps, h.alone⟩
  intro front back i heq hi b hb
  have hordered := h.ordered
  rw [heq] at hordered
  exact (List.pairwise_cons.mp (List.pairwise_append.mp hordered).2.1).1 _ hb hi b rfl

end Sys2Proof.Proofs
end
